-- ==== Sys2Proof/Config.lean ====
section
/-!
DEFINITION. The build parameters of one engine (00_scope.md rules R3 and R6 to R9), the fixed sizes of the
host interface, and the values the spec leaves open (opaque: nothing in Lean can evaluate them).
-/

namespace Sys2Proof

/-- The build variant of an engine. R3: one engine implements exactly one of them, fixed when it is built. -/
inductive Variant where
  /-- `W = 32` -/
  | blake2s
  /-- `W = 64` -/
  | blake2b
  deriving DecidableEq, Repr

namespace Variant

/-- `W`, the word width in bits (R6). -/
def wordBits : Variant → Nat
  | .blake2s => 32
  | .blake2b => 64

/-- `R`, the rounds of one compression (R6). -/
def rounds : Variant → Nat
  | .blake2s => 10
  | .blake2b => 12

/-- `wb = W/8`, the word width in bytes (R6). -/
def wordBytes (V : Variant) : Nat := V.wordBits / 8

/-- `BL = 16 · wb`, the block length in bytes (R6). -/
def blockBytes (V : Variant) : Nat := 16 * V.wordBytes

/-- `MAXD = 8 · wb`, the greatest digest length in bytes, and the greatest key length (R6, R140). -/
def maxDigest (V : Variant) : Nat := 8 * V.wordBytes

/-- `SALTB = 2 · wb`, the length of a present salt or personalization (R7, 90_conflicts.md C1). -/
def saltBytes (V : Variant) : Nat := 2 * V.wordBytes

/-- `CW = 2 · W`, the width of the byte counter in bits (R8). -/
def counterBits (V : Variant) : Nat := 2 * V.wordBits

end Variant

namespace Config

/-- `WIN`, the size of the host register window in bytes (R9, R61). -/
def windowBytes : Nat := 0x200

/-- `BUSW`, the one access width the engine admits, in bits (R9, R64). -/
def busBits : Nat := 32

/-- FREE VALUE (R71, 93_implementation_defined.md U3 and U17): what a host read taken while `busy = 1` returns,
one draw for each value of the model's draw counter. It has no body on purpose: assumption 5. -/
opaque busyRead : Nat → BitVec 32

/-- FREE VALUE: what the platform returns for a host read outside the window, which never reaches the engine (R61).
Assumption 6. -/
opaque outsideRead : Nat → BitVec 32

/-- OPEN PARAMETER `ENGINE_BASE` (R61, 92_eei_decisions.md D3): where the window stands in the host's address map.
The engine does not see it. Assumption 11. -/
opaque engineBase : Nat

end Config

end Sys2Proof
end

