-- ==== Sys2Proof/Word.lean ====
section
/-!
DEFINITION. The word types of the engine (R14, R130: the width is part of the type, so words of different widths
never meet) and their plainest arithmetic (R120 to R122, R124).
-/

namespace Sys2Proof

/-- A byte: 8 bits, unsigned (R12). -/
abbrev Byte := BitVec 8

/-- A `W`-bit word of the variant `V` (R14). -/
abbrev Word (V : Variant) := BitVec V.wordBits

/-- A value of the byte counter, `CW = 2W` bits (R8). -/
abbrev Counter (V : Variant) := BitVec V.counterBits

namespace Word

/-- R120: addition modulo `2^W`, with no carry recorded. -/
abbrev add {V : Variant} (a b : Word V) : Word V := a + b

/-- R121: bitwise exclusive or. -/
abbrev xor {V : Variant} (a b : Word V) : Word V := a ^^^ b

/-- R122: bitwise or. -/
abbrev or {V : Variant} (a b : Word V) : Word V := a ||| b

/-- R124: `ONES_W`, the word with every bit set. -/
abbrev ones (V : Variant) : Word V := BitVec.allOnes V.wordBits

end Word

end Sys2Proof
end

