-- ==== Sys2Proof/Syntax.lean ====
section
/-!
DEFINITION. The commands: one constructor for each row of spec/opcode_table.json (R91, R97).
-/

namespace Sys2Proof

/-- A command of the engine. Every other operand is implicit, in the engine's state (R98). -/
inductive Instr where
  /-- CONFIGURE (R145) -/
  | configure
  /-- ABSORB_BYTE `b`, the IMM8 field (R92, R204) -/
  | absorbByte (b : Byte)
  /-- ABSORB `n`, the LEN field, a natural in `0..255` (R93, R206) -/
  | absorb (n : Nat)
  /-- FINALIZE (R210) -/
  | finalize
  /-- RESET (R218) -/
  | reset
  /-- CLEAR_KEY (R222) -/
  | clearKey
  /-- CLEAR_SALT (R226) -/
  | clearSalt
  deriving DecidableEq, Repr

/-- The name of a command's row in the opcode table (R91, R97). -/
def Instr.mnemonic : Instr → String
  | .configure => "CONFIGURE"
  | .absorbByte _ => "ABSORB_BYTE"
  | .absorb _ => "ABSORB"
  | .finalize => "FINALIZE"
  | .reset => "RESET"
  | .clearKey => "CLEAR_KEY"
  | .clearSalt => "CLEAR_SALT"

end Sys2Proof
end

