-- ==== Sys2Proof/WellFormed.lean ====
section
/-!
DEFINITION. Which commands have a command word: those whose operands fit their fields (R92, R93).
-/

namespace Sys2Proof

/-- R93: LEN is an 8-bit unsigned count. A LEN above `BL` is well formed: its word matches the ABSORB row and the
command completes with BAD_LENGTH (R97). An IMM8 operand fits its field by its type. -/
def Instr.wellFormed : Instr → Bool
  | .configure => true
  | .absorbByte _ => true
  | .absorb n => n < 256
  | .finalize => true
  | .reset => true
  | .clearKey => true
  | .clearSalt => true

end Sys2Proof
end

