-- ==== Sys2Proof/Decode.lean ====
section
/-!
DEFINITION. The decoder of command words (R90 to R97), total on any word and any bytes and rejecting by name, and the
encoder. Both are written from the field table of R90 and the opcode map of R91; the mask and match table of R97 is
kept apart, as `commandRows`, so that the two can be compared.
-/

namespace Sys2Proof

/-- R90: OP, bits [3:0]. -/
def fieldOp (c : BitVec 32) : BitVec 4 := c.extractLsb' 0 4

/-- R90: Z1, bits [7:4]. -/
def fieldZ1 (c : BitVec 32) : BitVec 4 := c.extractLsb' 4 4

/-- R90: IMM8, bits [15:8]. -/
def fieldImm8 (c : BitVec 32) : BitVec 8 := c.extractLsb' 8 8

/-- R90: LEN, bits [23:16]. -/
def fieldLen (c : BitVec 32) : BitVec 8 := c.extractLsb' 16 8

/-- R90: Z2, bits [31:24]. -/
def fieldZ2 (c : BitVec 32) : BitVec 8 := c.extractLsb' 24 8

/-- Why bytes are no command. All but `truncated` are ILLEGAL_COMMAND to the engine (R96); `truncated` cannot reach
it, since CMD is written whole (R78). -/
inductive DecodeError where
  /-- OP is 0x0 or at least 0x8 (R95) -/
  | reservedOpcode
  /-- Z1 or Z2 is not 0 (R94) -/
  | reservedField
  /-- IMM8 is not 0 and OP is not ABSORB_BYTE's (R94) -/
  | unusedImm8
  /-- LEN is not 0 and OP is not ABSORB's (R94) -/
  | unusedLen
  /-- fewer than the four bytes of a command word -/
  | truncated
  deriving DecidableEq, Repr

/-- R91: the command of an opcode, its operands taken from IMM8 and LEN (R92, R93). -/
def instrOfOp (op : BitVec 4) (b : Byte) (n : Nat) : Option Instr :=
  match op.toNat with
  | 1 => some .configure
  | 2 => some (.absorbByte b)
  | 3 => some (.absorb n)
  | 4 => some .finalize
  | 5 => some .reset
  | 6 => some .clearKey
  | 7 => some .clearSalt
  | _ => none

/-- R96: the checks on the word alone, in the spec's order. Those on the state (NOT_CONFIGURED, BAD_LENGTH) are part
of each command's meaning. -/
def decodeWord (c : BitVec 32) : Except DecodeError Instr :=
  match instrOfOp (fieldOp c) (fieldImm8 c) (fieldLen c).toNat with
  | none => .error .reservedOpcode
  | some i =>
    if fieldZ1 c ≠ 0 ∨ fieldZ2 c ≠ 0 then .error .reservedField
    else if fieldOp c ≠ 2 ∧ fieldImm8 c ≠ 0 then .error .unusedImm8
    else if fieldOp c ≠ 3 ∧ fieldLen c ≠ 0 then .error .unusedLen
    else .ok i

/-- The command at the head of a byte list, and the bytes after it: four bytes, the lowest lane first (R65). -/
def decodeBytes : List Byte → Except DecodeError (Instr × List Byte)
  | b0 :: b1 :: b2 :: b3 :: rest =>
    match decodeWord (b3 ++ b2 ++ b1 ++ b0) with
    | .ok i => .ok (i, rest)
    | .error r => .error r
  | _ => .error .truncated

/-- A table word of `nbits` bits as the 32-bit command word it is; the bits above `nbits` are 0. -/
def tableWord (nbits w : Nat) : BitVec 32 := BitVec.ofNat 32 (w % 2 ^ nbits)

/-- The four byte lanes of a command word, the lowest first (R65). -/
def wordBytes (c : BitVec 32) : List Byte :=
  [c.extractLsb' 0 8, c.extractLsb' 8 8, c.extractLsb' 16 8, c.extractLsb' 24 8]

/-- The command the decoder reads from a table word laid out as the hardware stores it. -/
def decodeTableWord (nbits w : Nat) : Option Instr :=
  match decodeBytes (wordBytes (tableWord nbits w)) with
  | .ok (i, _) => some i
  | .error _ => none

/-- R91: the opcode of a command. -/
def Instr.opcode : Instr → BitVec 4
  | .configure => 1
  | .absorbByte _ => 2
  | .absorb _ => 3
  | .finalize => 4
  | .reset => 5
  | .clearKey => 6
  | .clearSalt => 7

/-- R92: the IMM8 field of a command; 0 where it is not used (R94). -/
def Instr.imm8 : Instr → BitVec 8
  | .absorbByte b => b
  | .configure => 0
  | .absorb _ => 0
  | .finalize => 0
  | .reset => 0
  | .clearKey => 0
  | .clearSalt => 0

/-- R93: the LEN field of a command; 0 where it is not used (R94). DESIGN CHOICE (assumption 16): of a count above 255,
which R93 does not admit and no word carries, the low 8 bits; such a command is ill formed, and no line expands to it. -/
def Instr.len : Instr → BitVec 8
  | .absorb n => BitVec.ofNat 8 n
  | .configure => 0
  | .absorbByte _ => 0
  | .finalize => 0
  | .reset => 0
  | .clearKey => 0
  | .clearSalt => 0

/-- R90: the command word of a command: Z2, LEN, IMM8, Z1, OP, from bit 31 down. -/
def encode (i : Instr) : BitVec 32 := (0 : BitVec 8) ++ i.len ++ i.imm8 ++ (0 : BitVec 4) ++ i.opcode

/-- One row of R97: a command word matches it when its bits under the mask are `pattern`. -/
structure CommandRow where
  mnemonic : String
  pattern  : BitVec 32
  mask     : BitVec 32
  deriving DecidableEq, Repr

/-- R97: the exact words, as the spec's table lists them. -/
def commandRows : List CommandRow := [
  ⟨"CONFIGURE",   0x00000001, 0xFFFFFFFF⟩,
  ⟨"ABSORB_BYTE", 0x00000002, 0xFFFF00FF⟩,
  ⟨"ABSORB",      0x00000003, 0xFF00FFFF⟩,
  ⟨"FINALIZE",    0x00000004, 0xFFFFFFFF⟩,
  ⟨"RESET",       0x00000005, 0xFFFFFFFF⟩,
  ⟨"CLEAR_KEY",   0x00000006, 0xFFFFFFFF⟩,
  ⟨"CLEAR_SALT",  0x00000007, 0xFFFFFFFF⟩]

/-- R97: the word matches the row. -/
def CommandRow.matchesWord (r : CommandRow) (c : BitVec 32) : Bool := c &&& r.mask == r.pattern

end Sys2Proof
end

