-- ==== Sys2Proof/Machine/State.lean ====
section
/-!
DEFINITION. Everything the spec gives the machine, as plain data (10_state.md), the host's side of a run (the other
agent of R20: what it has still to do, when it moves, and what its reads returned), the reasons a step can stop, and
the state right after hardware reset (R47).
-/

namespace Sys2Proof.Machine

/-- The staging registers (R21): written by the host, sampled by a command at its completion step (R78). -/
structure Staging where
  /-- CFG, stored as written, reserved bits included (R32) -/
  cfg    : BitVec 32
  /-- CFGLEN (R33) -/
  cfglen : BitVec 32
  /-- KEY0 to KEY15, write-only (R39) -/
  keys   : Vector Byte 64
  /-- SALT0 to SALT3, write-only (R39) -/
  salts  : Vector Byte 16
  /-- PERS0 to PERS3 (R39) -/
  perss  : Vector Byte 16
  /-- INBUF0 to INBUF31 (R41) -/
  inbuf  : Vector Byte 128
  deriving DecidableEq, Repr

/-- The command latch and the error state (R43, R44). -/
structure Latch where
  /-- set by a CMD write, cleared by the completion step -/
  busy   : Bool
  /-- the latched command word, meaningful only while `busy` -/
  pend   : BitVec 32
  /-- the result code of the last completed command (R240) -/
  err    : BitVec 4
  /-- set by any completion with an error, cleared by hardware reset only -/
  sticky : Bool
  deriving DecidableEq, Repr

/-- The instance parameters a successful CONFIGURE latches (R29, R40). -/
structure Params (V : Variant) where
  /-- an instance exists -/
  configured : Bool
  /-- digest length in bytes -/
  dl    : Nat
  /-- key length in bytes, 0 when unkeyed -/
  kl    : Nat
  /-- the retained key, zero from index `kl` on -/
  keyr  : Vector Byte V.maxDigest
  /-- a salt is present -/
  saltp : Bool
  /-- the retained salt -/
  saltr : Vector Byte V.saltBytes
  /-- a personalization is present -/
  persp : Bool
  /-- the retained personalization -/
  persr : Vector Byte V.saltBytes
  deriving DecidableEq, Repr

/-- The hash state (R23, R26, R27, R28). -/
structure HashState (V : Variant) where
  /-- the chain value -/
  h   : Vector (Word V) 8
  /-- the byte counter -/
  t   : Counter V
  /-- the finalisation flag, `0` or `ONES_W` -/
  f   : Word V
  /-- the block buffer -/
  buf : Vector Byte V.blockBytes
  /-- how many bytes of the buffer are valid, `0..BL` -/
  cur : Nat
  deriving DecidableEq, Repr

/-- The compression's working state and message words (R24, R25). No rule reads them outside one compression;
the model keeps what the last one left (assumption 8). -/
structure Scratch (V : Variant) where
  v : Vector (Word V) 16
  m : Vector (Word V) 16
  deriving DecidableEq, Repr

/-- The digest output (R42). -/
structure Output where
  /-- DOUT0 to DOUT15 -/
  dout   : Vector Byte 64
  /-- how many bytes of `dout` the last FINALIZE wrote -/
  outlen : Nat
  deriving DecidableEq, Repr

/-- The engine state of R21, in the groups R21 names. -/
structure Engine (V : Variant) where
  staging : Staging
  latch   : Latch
  params  : Params V
  hash    : HashState V
  scratch : Scratch V
  output  : Output
  deriving DecidableEq, Repr

/-- One operation of the host (R101, R103). Loaders and the other pseudo-instructions of R102 to R106 expand to
these (Machine/HostProgram.lean). -/
inductive HostOp where
  /-- a read of `width` bits at the byte offset `off` (R13 `MemRead`; R64 admits `width = 32` only) -/
  | read (off width : Nat)
  /-- a write of `width` bits at the byte offset `off` (R13 `MemWrite`) -/
  | write (off width : Nat) (val : BitVec 32)
  /-- the STATUS poll loop of R103; each pass through it is one read, and one step -/
  | wait
  deriving DecidableEq, Repr

/-- Who moves next (R20), or hardware reset, an external input that may come between any two steps (R270). -/
inductive Turn where
  | host
  | engine
  | hardwareReset
  deriving DecidableEq, Repr

/-- THE MODEL'S OWN FIELDS: the host agent of R20 and the inputs from outside, as plain data (assumptions 2, 4, 12, 21).
The spec calls the program "the host's sequence of accesses" and does not count it as engine state (R21). -/
structure HostSide where
  /-- the host's operations still to come, in program order (R74) -/
  program  : List HostOp
  /-- whose turn the next steps are; where it is empty, a busy engine completes and otherwise the host moves, so
  every schedule is weakly fair to the engine (R275) -/
  schedule : List Turn
  /-- the values the host's reads returned, oldest first -/
  observed : List (BitVec 32)
  /-- how many free values have been drawn -/
  draws    : Nat
  /-- the host wrote CMD, and no STATUS read has returned BUSY = 0 since: the run has not ended (R284) -/
  awaiting : Bool
  deriving DecidableEq, Repr

/-- The whole state: the build parameter `W`, which no step changes (R3), the engine, and the host's side. -/
structure State where
  variant : Variant
  engine  : Engine variant
  host    : HostSide
  deriving DecidableEq, Repr

/-- Why a run stops: the two host-protocol violations of R246, whose hardware behaviour the spec does not give. Both
are raised by a host access (Machine/Window.lean), never by a command. SAFE: nothing is proved of the run. -/
inductive Fault where
  /-- an access whose width is not 32 bits, or whose offset is no multiple of 4 (R64). Raised by `hostRead` and `hostWrite`. Safe. -/
  | busFault (off width : Nat)
  /-- a host write while `busy = 1` (R71). Raised by `hostWrite`. Safe. -/
  | hostWriteWhileBusy (off : Nat)
  deriving DecidableEq, Repr

/-- Why an instruction has no meaning. Every command of the table has one, so nothing raises this. -/
inductive Refusal where
  /-- the instruction of that name has no meaning yet (raised by an arm of exec only; no arm does). Safe. -/
  | notModelled (mnemonic : String)
  deriving DecidableEq, Repr

/-- `n` bytes of value 0x00 (R12). -/
abbrev zeros (n : Nat) : Vector Byte n := Vector.replicate n 0

/-- The engine right after hardware reset: every element as R47 lists it. -/
def Engine.reset (V : Variant) : Engine V where
  staging := ⟨0, 0, zeros 64, zeros 16, zeros 16, zeros 128⟩
  latch   := ⟨false, 0, 0, false⟩
  params  := ⟨false, 0, 0, zeros _, false, zeros _, false, zeros _⟩
  hash    := ⟨Vector.replicate 8 0, 0, 0, zeros _, 0⟩
  scratch := ⟨Vector.replicate 16 0, Vector.replicate 16 0⟩
  output  := ⟨zeros 64, 0⟩

/-- An engine of the variant `V` right after hardware reset, before a host has done or asked for anything. -/
def State.resetOf (V : Variant) : State := ⟨V, Engine.reset V, ⟨[], [], [], 0, false⟩⟩

/-- The machine right after reset. The spec fixes no variant (R3: a build parameter); the model's one named reset
state is that of the source's own 32-bit variant, BLAKE2s, and `State.resetOf` gives both (assumption 1). -/
def State.reset : State := State.resetOf .blake2s

end Sys2Proof.Machine
end

