-- ==== Sys2Proof/Machine/Operands.lean ====
section
/-!
DEFINITION. How values are taken apart and put together: byte lanes and packed registers (R65, R66), little-endian
words (R125, R126), and the fields of CFG and CFGLEN (R32, R33). The fields of a command word are in Decode.lean.
-/

namespace Sys2Proof.Machine

/-- R65: byte lane `k` of a register value is its bits `[8k+7:8k]`. -/
def lane (r : BitVec 32) (k : Nat) : Byte := r.extractLsb' (8 * k) 8

/-- R66: register `j` of a byte array, byte `4j+k` in bits `[8k+7:8k]`. -/
def packedReg {n : Nat} (bs : Vector Byte n) (j : Nat) : BitVec 32 :=
  bs[4 * j + 3]?.getD 0 ++ bs[4 * j + 2]?.getD 0 ++ bs[4 * j + 1]?.getD 0 ++ bs[4 * j]?.getD 0

/-- R66, R69: a byte array after all 32 bits of its register `j` are written. -/
@[irreducible] def storeReg {n : Nat} (bs : Vector Byte n) (j : Nat) (r : BitVec 32) : Vector Byte n :=
  Vector.ofFn fun i => if i.val / 4 = j then lane r (i.val % 4) else bs[i]

/-- The value of a byte string read little-endian: the sum of `B[k] · 2^(8k)` (R125). -/
def leValue : List Byte → Nat
  | [] => 0
  | b :: rest => b.toNat + 256 * leValue rest

/-- R125: `LEword_W` of the `wb` bytes of `bs` from index `i` on. -/
def leWord (V : Variant) {n : Nat} (bs : Vector Byte n) (i : Nat) : Word V :=
  BitVec.ofNat _ (leValue ((bs.toList.drop i).take V.wordBytes))

/-- R126: byte `k` of `LEbytes_W(x)`. -/
def leByte {V : Variant} (x : Word V) (k : Nat) : Byte := x.extractLsb' (8 * k) 8

/-- R32: DLEN, bits [9:0]. -/
def cfgDlen (c : BitVec 32) : Nat := (c.extractLsb' 0 10).toNat

/-- R32: DLEN_IN_BITS, bit [10]. -/
def cfgDlenInBits (c : BitVec 32) : Bool := c.getLsbD 10

/-- R32: KEYLEN, bits [22:16]. -/
def cfgKeylen (c : BitVec 32) : Nat := (c.extractLsb' 16 7).toNat

/-- R32: SALT_EN, bit [24]. -/
def cfgSaltEn (c : BitVec 32) : Bool := c.getLsbD 24

/-- R32: PERS_EN, bit [25]. -/
def cfgPersEn (c : BitVec 32) : Bool := c.getLsbD 25

/-- R146: a reserved bit of CFG or CFGLEN is set. -/
def cfgReservedSet (c cl : BitVec 32) : Bool :=
  c.extractLsb' 11 5 != 0 || c.getLsbD 23 || c.extractLsb' 26 6 != 0 || cl.extractLsb' 16 16 != 0

/-- R33: SALT_LEN, bits [7:0]. -/
def cfglenSalt (cl : BitVec 32) : Nat := (cl.extractLsb' 0 8).toNat

/-- R33: PERS_LEN, bits [15:8]. -/
def cfglenPers (cl : BitVec 32) : Nat := (cl.extractLsb' 8 8).toNat

end Sys2Proof.Machine
end

