-- ==== Sys2Proof/Machine/Tables.lean ====
section
/-!
DEFINITION. The constant tables of the compression core (R170 to R173, R6) and the fixed tree-mode fields of the
parameter block (R141). Their values are the spec's; it marks those the source does not give as general knowledge
(93_implementation_defined.md G1 to G6; assumption 10).
-/

namespace Sys2Proof.Machine

/-- R170, R171: the initialisation vector. -/
def iv : (V : Variant) → Vector (Word V) 8
  | .blake2s => #v[0x6A09E667#32, 0xBB67AE85#32, 0x3C6EF372#32, 0xA54FF53A#32,
                   0x510E527F#32, 0x9B05688C#32, 0x1F83D9AB#32, 0x5BE0CD19#32]
  | .blake2b => #v[0x6A09E667F3BCC908#64, 0xBB67AE8584CAA73B#64, 0x3C6EF372FE94F82B#64, 0xA54FF53A5F1D36F1#64,
                   0x510E527FADE682D1#64, 0x9B05688C2B3E6C1F#64, 0x1F83D9ABFB41BD6B#64, 0x5BE0CD19137E2179#64]

/-- R172: the ten rows of the message permutation, the same for both variants. -/
def sigma : Vector (Vector (Fin 16) 16) 10 := #v[
  #v[ 0,  1,  2,  3,  4,  5,  6,  7,  8,  9, 10, 11, 12, 13, 14, 15],
  #v[14, 10,  4,  8,  9, 15, 13,  6,  1, 12,  0,  2, 11,  7,  5,  3],
  #v[11,  8, 12,  0,  5,  2, 15, 13, 10, 14,  3,  6,  7,  1,  9,  4],
  #v[ 7,  9,  3,  1, 13, 12, 11, 14,  2,  6,  5, 10,  4,  0, 15,  8],
  #v[ 9,  0,  5,  7,  2,  4, 10, 15, 14,  1, 11, 12,  6,  8,  3, 13],
  #v[ 2, 12,  6, 10,  0, 11,  8,  3,  4, 13,  7,  5, 15, 14,  1,  9],
  #v[12,  5,  1, 15, 14, 13,  4, 10,  0,  7,  6,  3,  9,  2,  8, 11],
  #v[13, 11,  7, 14, 12,  1,  3,  9,  5,  0, 15,  4,  8,  6,  2, 10],
  #v[ 6, 15, 14,  9, 11,  3,  0,  8, 12,  2, 13,  7,  1,  4, 10,  5],
  #v[10,  2,  8,  4,  7,  6,  1,  5, 15, 11,  9, 14,  3, 12, 13,  0]]

/-- R173: round `r` uses row `r mod 10`. -/
def sigmaRow (r : Nat) : Vector (Fin 16) 16 := sigma[r % 10]'(Nat.mod_lt r (by decide))

/-- R6, R174: the four rotation constants of G. -/
def rot1 : Variant → Nat
  | .blake2s => 16
  | .blake2b => 32

/-- R6, R174. -/
def rot2 : Variant → Nat
  | .blake2s => 12
  | .blake2b => 24

/-- R6, R174. -/
def rot3 : Variant → Nat
  | .blake2s => 8
  | .blake2b => 16

/-- R6, R174. -/
def rot4 : Variant → Nat
  | .blake2s => 7
  | .blake2b => 63

/-- R141: the tree-mode fields are constants of the hardware. -/
def fanout : Nat := 1
/-- R141. -/
def depth : Nat := 1
/-- R141. -/
def leafLength : Nat := 0
/-- R141. -/
def nodeOffset : Nat := 0
/-- R141. -/
def nodeDepth : Nat := 0
/-- R141. -/
def innerLength : Nat := 0

end Sys2Proof.Machine
end

