-- ==== Sys2Proof/Machine/Compress.lean ====
section
/-!
DEFINITION. The compression core (42_compression.md): G, the round, message decode and `Compress`, with the word
rotation and the counter halves they use (R123, R127). No command invokes it directly.
-/

namespace Sys2Proof.Machine

/-- R123: right rotation, for `0 < n < W`. -/
def rotr {V : Variant} (a : Word V) (n : Nat) : Word V := (a >>> n) ||| (a <<< (V.wordBits - n))

/-- R127: the counter's low word. -/
def counterLo {V : Variant} (t : Counter V) : Word V := t.extractLsb' 0 V.wordBits

/-- R127: the counter's high word. -/
def counterHi {V : Variant} (t : Counter V) : Word V := t.extractLsb' V.wordBits V.wordBits

/-- R174: G, the mixing function; each line reads what the line before wrote. -/
def mix {V : Variant} (a b c d x y : Word V) : Word V × Word V × Word V × Word V :=
  let a := Word.add (Word.add a b) x
  let d := rotr (Word.xor d a) (rot1 V)
  let c := Word.add c d
  let b := rotr (Word.xor b c) (rot2 V)
  let a := Word.add (Word.add a b) y
  let d := rotr (Word.xor d a) (rot3 V)
  let c := Word.add c d
  let b := rotr (Word.xor b c) (rot4 V)
  (a, b, c, d)

/-- Four indices of working words, on which one G call acts. -/
abbrev Quad := Fin 16 × Fin 16 × Fin 16 × Fin 16

/-- R175: the working words of G calls 0 to 3, the four columns. -/
def columns : Vector Quad 4 := #v[(0, 4, 8, 12), (1, 5, 9, 13), (2, 6, 10, 14), (3, 7, 11, 15)]

/-- R175: the working words of G calls 4 to 7, the four diagonals. -/
def diagonals : Vector Quad 4 := #v[(0, 5, 10, 15), (1, 6, 11, 12), (2, 7, 8, 13), (3, 4, 9, 14)]

/-- R175: one G call; its four results go back to the same four working words. -/
def mixAt {V : Variant} (v : Vector (Word V) 16) (q : Quad) (x y : Word V) : Vector (Word V) 16 :=
  let (a, b, c, d) := q
  let r := mix v[a] v[b] v[c] v[d] x y
  (((v.set a r.1).set b r.2.1).set c r.2.2.1).set d r.2.2.2

/-- R175: G call `i` of a round takes `m[s[2i]]` and `m[s[2i+1]]`. -/
def mixCall {V : Variant} (m : Vector (Word V) 16) (s : Vector (Fin 16) 16) (v : Vector (Word V) 16)
    (q : Quad) (i : Fin 8) : Vector (Word V) 16 :=
  mixAt v q m[s[2 * i.val]] m[s[2 * i.val + 1]]

/-- R175: the four column calls of a round, in order. -/
def columnHalf {V : Variant} (m : Vector (Word V) 16) (s : Vector (Fin 16) 16) (v : Vector (Word V) 16) :
    Vector (Word V) 16 :=
  let v := mixCall m s v columns[0] 0
  let v := mixCall m s v columns[1] 1
  let v := mixCall m s v columns[2] 2
  mixCall m s v columns[3] 3

/-- R175: the four diagonal calls of a round, in order, on what the column calls wrote. -/
def diagonalHalf {V : Variant} (m : Vector (Word V) 16) (s : Vector (Fin 16) 16) (v : Vector (Word V) 16) :
    Vector (Word V) 16 :=
  let v := mixCall m s v diagonals[0] 4
  let v := mixCall m s v diagonals[1] 5
  let v := mixCall m s v diagonals[2] 6
  mixCall m s v diagonals[3] 7

/-- R175: `Round(v, m, r)`. -/
def round {V : Variant} (m v : Vector (Word V) 16) (r : Nat) : Vector (Word V) 16 :=
  diagonalHalf m (sigmaRow r) (columnHalf m (sigmaRow r) v)

/-- R177: rounds `0, 1, …, R-1` in increasing order. -/
def allRounds {V : Variant} (m v : Vector (Word V) 16) : Vector (Word V) 16 :=
  (List.range V.rounds).foldl (round m) v

/-- R176: the block decoded into 16 little-endian words. -/
def messageWords {V : Variant} (block : Vector Byte V.blockBytes) : Vector (Word V) 16 :=
  Vector.ofFn fun i => leWord V block (i.val * V.wordBytes)

/-- R178: the working state a compression starts from. -/
def workingInit {V : Variant} (h : Vector (Word V) 8) (t : Counter V) (isFinal : Bool) : Vector (Word V) 16 :=
  h ++ #v[(iv V)[0], (iv V)[1], (iv V)[2], (iv V)[3],
    Word.xor (counterLo t) (iv V)[4],
    Word.xor (counterHi t) (iv V)[5],
    Word.xor (if isFinal then Word.ones V else 0) (iv V)[6],
    (iv V)[7]]

/-- R179: the output fold. -/
def foldOutput {V : Variant} (h : Vector (Word V) 8) (v : Vector (Word V) 16) : Vector (Word V) 8 :=
  Vector.ofFn fun i => Word.xor (Word.xor h[i] v[i.val]) v[i.val + 8]

/-- R178, R176, R177: the working state as the last round leaves it. -/
def workingFinal {V : Variant} (h : Vector (Word V) 8) (block : Vector Byte V.blockBytes) (t : Counter V)
    (isFinal : Bool) : Vector (Word V) 16 :=
  allRounds (messageWords block) (workingInit h t isFinal)

/-- R180: `Compress(h, block, t, isFinal)`, the new chain value. -/
def compress {V : Variant} (h : Vector (Word V) 8) (block : Vector Byte V.blockBytes) (t : Counter V)
    (isFinal : Bool) : Vector (Word V) 8 :=
  foldOutput h (workingFinal h block t isFinal)

end Sys2Proof.Machine
end

