-- ==== Sys2Proof/Machine/Flags.lean ====
section
/-!
DEFINITION. The error codes (R240), STATUS.STATE (R40) and the STATUS word (R35). The engine has no condition codes
(R46).
-/

namespace Sys2Proof.Machine

/-- R240: the results of a command. The codes 0x5 to 0xF are reserved and never written. -/
inductive ErrCode where
  | ok
  | invalidParameter
  | illegalCommand
  | notConfigured
  | badLength
  deriving DecidableEq, Repr

/-- R240: the value STATUS.ERR takes. -/
def ErrCode.code : ErrCode → BitVec 4
  | .ok => 0
  | .invalidParameter => 1
  | .illegalCommand => 2
  | .notConfigured => 3
  | .badLength => 4

/-- R40: what STATUS.STATE reports. The value 3 does not occur. -/
inductive Phase where
  | unconfigured
  | empty
  | buffering
  deriving DecidableEq, Repr

/-- R40: the two bits of STATUS.STATE. -/
def Phase.code : Phase → BitVec 2
  | .unconfigured => 0
  | .empty => 1
  | .buffering => 2

/-- R40: STATE is computed from the state; no register holds it. -/
def Engine.phase {V : Variant} (e : Engine V) : Phase :=
  if e.params.configured = false then .unconfigured
  else if e.hash.cur = 0 ∧ e.hash.t = 0 then .empty
  else .buffering

/-- R35: the STATUS word, from bit 31 down: reserved, PERSONALIZED, SALTED, KEYED, CURSOR, ERR, STATE, STICKY, BUSY. -/
def Engine.status {V : Variant} (e : Engine V) : BitVec 32 :=
  (0 : BitVec 13) ++ BitVec.ofBool e.params.persp ++ BitVec.ofBool e.params.saltp
    ++ BitVec.ofBool (decide (0 < e.params.kl)) ++ BitVec.ofNat 8 e.hash.cur ++ e.latch.err
    ++ e.phase.code ++ BitVec.ofBool e.latch.sticky ++ BitVec.ofBool e.latch.busy

end Sys2Proof.Machine
end

