-- ==== Sys2Proof/Machine/ParamInit.lean ====
section
/-!
DEFINITION. The parameter block and the chain value it gives (R140 to R144).
-/

namespace Sys2Proof.Machine

/-- R142: the first parameter word `p0`. -/
def paramWord (V : Variant) (dl kl : Nat) : Word V :=
  Word.or (Word.or (Word.or (BitVec.ofNat _ dl) (BitVec.ofNat _ kl <<< 8)) (BitVec.ofNat _ fanout <<< 16))
    (BitVec.ofNat _ depth <<< 24)

/-- R143, R144: what the fixed tree-mode fields put into `h[1]`, `h[2]` and `h[3]`. -/
def treeWords : (V : Variant) → Word V × Word V × Word V
  | .blake2s => (BitVec.ofNat 32 leafLength, BitVec.ofNat 32 nodeOffset,
      BitVec.ofNat 32 (nodeOffset / 2 ^ 32) ||| (BitVec.ofNat 32 nodeDepth <<< 16) ||| (BitVec.ofNat 32 innerLength <<< 24))
  | .blake2b => (0, 0, 0)

/-- R143: word `k` of a salt or personalization, 0 where it is absent. -/
def optionalWord {V : Variant} (present : Bool) (bs : Vector Byte V.saltBytes) (k : Nat) : Word V :=
  if present then leWord V bs (k * V.wordBytes) else 0

/-- R143, R144: `ParamInit`. -/
def paramInit {V : Variant} (p : Params V) : Vector (Word V) 8 := #v[
  Word.xor (iv V)[0] (paramWord V p.dl p.kl),
  Word.xor (iv V)[1] (treeWords V).1,
  Word.xor (iv V)[2] (treeWords V).2.1,
  Word.xor (iv V)[3] (treeWords V).2.2,
  Word.xor (iv V)[4] (optionalWord p.saltp p.saltr 0),
  Word.xor (iv V)[5] (optionalWord p.saltp p.saltr 1),
  Word.xor (iv V)[6] (optionalWord p.persp p.persr 0),
  Word.xor (iv V)[7] (optionalWord p.persp p.persr 1)]

end Sys2Proof.Machine
end

