-- ==== Sys2Proof/Machine/Ops.lean ====
section
/-!
DEFINITION. The shared operations of the commands: how a command completes, with success or with an error (R243, R44,
R275: the engine's one kind of exception, from which nothing returns, R245, R248); the CMD latch (R72); the counter
(R128); and the procedures of 43_engine.md: Reinit (R200), the buffer-full step (R202) and AbsorbByte (R201, R203).
-/

namespace Sys2Proof.Machine

/-- The state with another engine in the place of its own. -/
def State.withEngine (s : State) (e : Engine s.variant) : State := { s with engine := e }

/-- The state with another host's side. -/
def State.withHost (s : State) (host : HostSide) : State := { s with host := host }

/-- R72: a CMD write latches the word and sets `busy`; nothing else changes. -/
def Engine.latchCommand {V : Variant} (e : Engine V) (c : BitVec 32) : Engine V :=
  { e with latch := { e.latch with pend := c, busy := true } }

/-- R44, R275: a command completes without error. -/
def Engine.succeed {V : Variant} (e : Engine V) : Engine V :=
  { e with latch := { e.latch with err := ErrCode.ok.code, busy := false } }

/-- R243: a command completes with the error `E`; no other state changes. -/
def Engine.raise {V : Variant} (e : Engine V) (E : ErrCode) : Engine V :=
  { e with latch := { e.latch with err := E.code, sticky := true, busy := false } }

/-- R275: the engine `e` after a command whose effect is `r`: the effect and success, or the error and nothing else. -/
def Engine.finish {V : Variant} (e : Engine V) (r : Except ErrCode (Engine V)) : Engine V :=
  match r with
  | .ok e' => e'.succeed
  | .error E => e.raise E

/-- R275: the completion step of a command with the effect `body`. -/
def complete (s : State) (body : Except ErrCode (Engine s.variant)) : Host.Outcome State Fault Refusal :=
  .next (s.withEngine (s.engine.finish body))

/-- R96: every command but CONFIGURE fails with NOT_CONFIGURED while there is no instance. -/
def Engine.whenConfigured {V : Variant} (e : Engine V) (r : Except ErrCode (Engine V)) : Except ErrCode (Engine V) :=
  if e.params.configured then r else .error .notConfigured

/-- R128: `CtrAdd(t, n)`, modulo `2^CW`, so that the low word carries into the high word. -/
def ctrAdd {V : Variant} (t : Counter V) (n : Nat) : Counter V := t + BitVec.ofNat _ n

/-- R200: the buffer a Reinit leaves: the retained key and zero padding when keyed, zeros when not. -/
def primedBuffer {V : Variant} (p : Params V) : Vector Byte V.blockBytes :=
  Vector.ofFn fun i => if i.val < p.kl then p.keyr[i.val]?.getD 0 else 0

/-- R200: the cursor a Reinit leaves: a full buffer when keyed. -/
def primedCursor {V : Variant} (p : Params V) : Nat := if 0 < p.kl then V.blockBytes else 0

/-- R200: `Reinit()`: the hash state, from the retained parameters alone. -/
def Engine.reinit {V : Variant} (e : Engine V) : Engine V :=
  { e with hash := { h := paramInit e.params, t := 0, f := 0, buf := primedBuffer e.params, cur := primedCursor e.params } }

/-- R180: compress the whole buffer into the chain value; `v` and `m` receive the working values. -/
def Engine.compressBuffer {V : Variant} (e : Engine V) (isFinal : Bool) : Engine V :=
  { e with
    hash := { e.hash with h := compress e.hash.h e.hash.buf e.hash.t isFinal }
    scratch := { v := workingFinal e.hash.h e.hash.buf e.hash.t isFinal, m := messageWords e.hash.buf } }

/-- R202: the counter moves on by `n`. -/
def Engine.count {V : Variant} (e : Engine V) (n : Nat) : Engine V :=
  { e with hash := { e.hash with t := ctrAdd e.hash.t n } }

/-- R202: the buffer is emptied. -/
def Engine.emptyBuffer {V : Variant} (e : Engine V) : Engine V :=
  { e with hash := { e.hash with buf := zeros _, cur := 0 } }

/-- R202: the buffer-full step; the counter is advanced before the compression reads it. -/
def Engine.flush {V : Variant} (e : Engine V) : Engine V :=
  ((e.count V.blockBytes).compressBuffer false).emptyBuffer

/-- R203: the store step. -/
def Engine.storeByte {V : Variant} (e : Engine V) (b : Byte) : Engine V :=
  { e with hash := { e.hash with buf := e.hash.buf.setIfInBounds e.hash.cur b, cur := e.hash.cur + 1 } }

/-- R201: `AbsorbByte(b)`: the buffer-full step when the buffer is full, then the store step. -/
def Engine.absorbByte {V : Variant} (e : Engine V) (b : Byte) : Engine V :=
  (if e.hash.cur = V.blockBytes then e.flush else e).storeByte b

/-- R206: `AbsorbByte` of each byte, in order. -/
def Engine.absorbBytes {V : Variant} (e : Engine V) (bs : List Byte) : Engine V := bs.foldl Engine.absorbByte e

end Sys2Proof.Machine
end

