-- ==== Sys2Proof/Machine/Absorb.lean ====
section
/-!
DEFINITION. ABSORB_BYTE (R204, R205) and ABSORB (R206 to R209).
-/

namespace Sys2Proof.Machine

/-- R204: ABSORB_BYTE `b`. -/
def execAbsorbByte (b : Byte) (s : State) : Host.Outcome State Fault Refusal :=
  complete s (s.engine.whenConfigured (.ok (s.engine.absorbByte b)))

/-- R206, R93: ABSORB `n`'s effect: BAD_LENGTH above `BL` (R96: after the NOT_CONFIGURED check), else the bytes
`inbuf[0..n)`, absorbed in order. -/
def Engine.absorb {V : Variant} (e : Engine V) (n : Nat) : Except ErrCode (Engine V) :=
  if V.blockBytes < n then .error .badLength else .ok (e.absorbBytes (e.staging.inbuf.toList.take n))

/-- R206: ABSORB `n`. -/
def execAbsorb (n : Nat) (s : State) : Host.Outcome State Fault Refusal :=
  complete s (s.engine.whenConfigured (s.engine.absorb n))

end Sys2Proof.Machine
end

