-- ==== Sys2Proof/Machine/Clear.lean ====
section
/-!
DEFINITION. CLEAR_KEY (R222 to R224) and CLEAR_SALT (R226, R227).
-/

namespace Sys2Proof.Machine

/-- R222: the KEY staging registers are zeroed. -/
def Engine.zeroKeyStaging {V : Variant} (e : Engine V) : Engine V :=
  { e with staging := { e.staging with keys := zeros 64 } }

/-- R222: the retained key and the whole live buffer are zeroed; `kl`, `cur`, `t` and `h` stay. -/
def Engine.zeroLiveKey {V : Variant} (e : Engine V) : Engine V :=
  { e with params := { e.params with keyr := zeros _ }, hash := { e.hash with buf := zeros _ } }

/-- R222: CLEAR_KEY's effect: the staging always, the live key material when keyed. -/
def Engine.clearKey {V : Variant} (e : Engine V) : Engine V :=
  if 0 < e.params.kl then e.zeroKeyStaging.zeroLiveKey else e.zeroKeyStaging

/-- R222: CLEAR_KEY. -/
def execClearKey (s : State) : Host.Outcome State Fault Refusal :=
  complete s (s.engine.whenConfigured (.ok s.engine.clearKey))

/-- R226: the SALT staging registers are zeroed. -/
def Engine.zeroSaltStaging {V : Variant} (e : Engine V) : Engine V :=
  { e with staging := { e.staging with salts := zeros 16 } }

/-- R226: the retained salt is zeroed; `saltp` stays. -/
def Engine.zeroRetainedSalt {V : Variant} (e : Engine V) : Engine V :=
  { e with params := { e.params with saltr := zeros _ } }

/-- R226: CLEAR_SALT's effect: the staging always, the retained salt when present. -/
def Engine.clearSalt {V : Variant} (e : Engine V) : Engine V :=
  if e.params.saltp then e.zeroSaltStaging.zeroRetainedSalt else e.zeroSaltStaging

/-- R226: CLEAR_SALT. -/
def execClearSalt (s : State) : Host.Outcome State Fault Refusal :=
  complete s (s.engine.whenConfigured (.ok s.engine.clearSalt))

end Sys2Proof.Machine
end

