-- ==== Sys2Proof/Machine/Configure.lean ====
section
/-!
DEFINITION. CONFIGURE (R145 to R152).
-/

namespace Sys2Proof.Machine

/-- R146, R147: the digest length CFG asks for, in bytes; none where a length in bits is no multiple of 8. -/
def requestedDigestBytes (c : BitVec 32) : Option Nat :=
  if cfgDlenInBits c then (if cfgDlen c % 8 ≠ 0 then none else some (cfgDlen c / 8)) else some (cfgDlen c)

/-- R146: the checks, every one of them before any state changes; what passes is the digest length and the key length. -/
def configureChecks (V : Variant) (c cl : BitVec 32) : Except ErrCode (Nat × Nat) :=
  if cfgReservedSet c cl then .error .invalidParameter
  else match requestedDigestBytes c with
  | none => .error .invalidParameter
  | some d =>
    if d < 1 ∨ V.maxDigest < d then .error .invalidParameter
    else if V.maxDigest < cfgKeylen c then .error .invalidParameter
    else if cfgSaltEn c = true ∧ cfglenSalt cl ≠ V.saltBytes then .error .invalidParameter
    else if cfgPersEn c = true ∧ cfglenPers cl ≠ V.saltBytes then .error .invalidParameter
    else .ok (d, cfgKeylen c)

/-- R150: the first `n` bytes of a staging array, zero-padded to the retained array's length. -/
def retain {a : Nat} (b n : Nat) (staged : Vector Byte a) : Vector Byte b :=
  Vector.ofFn fun i => if i.val < n then staged[i.val]?.getD 0 else 0

/-- R150: the parameters a successful CONFIGURE latches. -/
def configuredParams (V : Variant) (st : Staging) (d k : Nat) : Params V where
  configured := true
  dl    := d
  kl    := k
  keyr  := retain _ k st.keys
  saltp := cfgSaltEn st.cfg
  saltr := retain _ (if cfgSaltEn st.cfg then V.saltBytes else 0) st.salts
  persp := cfgPersEn st.cfg
  persr := retain _ (if cfgPersEn st.cfg then V.saltBytes else 0) st.perss

/-- R150: the new parameters are latched and the old digest is dropped. The staging registers are left unchanged. -/
def Engine.latchParams {V : Variant} (e : Engine V) (d k : Nat) : Engine V :=
  { e with params := configuredParams V e.staging d k, output := { dout := zeros 64, outlen := 0 } }

/-- R150: the commit. -/
def Engine.commit {V : Variant} (e : Engine V) (d k : Nat) : Engine V := (e.latchParams d k).reinit

/-- R145: CONFIGURE's effect. It is the one command allowed while there is no instance. -/
def Engine.configure {V : Variant} (e : Engine V) : Except ErrCode (Engine V) :=
  match configureChecks V e.staging.cfg e.staging.cfglen with
  | .error E => .error E
  | .ok (d, k) => .ok (e.commit d k)

/-- R145: CONFIGURE. -/
def execConfigure (s : State) : Host.Outcome State Fault Refusal := complete s s.engine.configure

end Sys2Proof.Machine
end

