-- ==== Sys2Proof/Machine/Finalize.lean ====
section
/-!
DEFINITION. FINALIZE (R210 to R216) and RESET (R218, R219).
-/

namespace Sys2Proof.Machine

/-- R211: the counter takes in the buffered bytes, and the finalisation flag is set. -/
def Engine.countTail {V : Variant} (e : Engine V) : Engine V :=
  { e with hash := { e.hash with t := ctrAdd e.hash.t e.hash.cur, f := Word.ones V } }

/-- R68, R213: byte `j` of the little-endian concatenation of the chain words. -/
def digestByte {V : Variant} (h : Vector (Word V) 8) (j : Nat) : Byte :=
  leByte (h[j / V.wordBytes]?.getD 0) (j % V.wordBytes)

/-- R213: the 64 bytes of DOUT: `dl` bytes of the digest, and zeros after them. -/
@[irreducible] def digestWindow {V : Variant} (h : Vector (Word V) 8) (dl : Nat) : Vector Byte 64 :=
  Vector.ofFn fun j => if j.val < dl then digestByte h j.val else 0

/-- R213: the digest goes to DOUT, and its length to OUTLEN. -/
def Engine.putDigest {V : Variant} (e : Engine V) : Engine V :=
  { e with output := { dout := digestWindow e.hash.h e.params.dl, outlen := e.params.dl } }

/-- R214: zeroisation of the working state, the chain value and the buffer. -/
def Engine.zeroise {V : Variant} (e : Engine V) : Engine V :=
  { e with
    hash := { e.hash with h := Vector.replicate 8 0, buf := zeros _ }
    scratch := { e.scratch with v := Vector.replicate 16 0 } }

/-- R210: FINALIZE's effect: R211 to R215, in order. -/
def Engine.finalize {V : Variant} (e : Engine V) : Engine V :=
  ((e.countTail.compressBuffer true).putDigest.zeroise).reinit

/-- R210: FINALIZE. -/
def execFinalize (s : State) : Host.Outcome State Fault Refusal :=
  complete s (s.engine.whenConfigured (.ok s.engine.finalize))

/-- R218: RESET: Reinit, and nothing else. -/
def execReset (s : State) : Host.Outcome State Fault Refusal :=
  complete s (s.engine.whenConfigured (.ok s.engine.reinit))

end Sys2Proof.Machine
end

