-- ==== Sys2Proof/Machine/Dispatch.lean ====
section
/-! DEFINITION. The dispatch: one arm per command, one direct call of its meaning. -/

namespace Sys2Proof.Machine

def exec (i : Instr) (s : State) : Host.Outcome State Fault Refusal :=
  match i with
  | .configure => Sys2Proof.Machine.execConfigure s
  | .absorbByte b => Sys2Proof.Machine.execAbsorbByte b s
  | .absorb n => Sys2Proof.Machine.execAbsorb n s
  | .finalize => Sys2Proof.Machine.execFinalize s
  | .reset => Sys2Proof.Machine.execReset s
  | .clearKey => Sys2Proof.Machine.execClearKey s
  | .clearSalt => Sys2Proof.Machine.execClearSalt s

end Sys2Proof.Machine
end

