-- ==== Sys2Proof/Machine/Window.lean ====
section
/-!
DEFINITION. The host register window (20_memory.md): the register map, reads and writes of registers, and one host
access with everything that can become of it.
-/

namespace Sys2Proof.Machine

/-- R30: the registers of the window, and the reserved offsets (R63). -/
inductive Reg where
  | id
  | cfg
  | cfglen
  | cmd
  | status
  | outlen
  | param
  | counter (k : Fin 4)
  | key (j : Fin 16)
  | salt (j : Fin 4)
  | pers (j : Fin 4)
  | inbuf (j : Fin 32)
  | dout (j : Fin 16)
  | reserved
  deriving DecidableEq, Repr

/-- R62: the register at a byte offset of the window, for an offset that is a multiple of 4. -/
def regAt (off : Nat) : Reg :=
  if off = 0x000 then .id
  else if off = 0x004 then .cfg
  else if off = 0x008 then .cfglen
  else if off = 0x00C then .cmd
  else if off = 0x010 then .status
  else if off = 0x014 then .outlen
  else if off = 0x018 then .param
  else if h : 0x020 ≤ off ∧ off < 0x030 then .counter ⟨(off - 0x020) / 4, by omega⟩
  else if h : 0x040 ≤ off ∧ off < 0x080 then .key ⟨(off - 0x040) / 4, by omega⟩
  else if h : 0x080 ≤ off ∧ off < 0x090 then .salt ⟨(off - 0x080) / 4, by omega⟩
  else if h : 0x090 ≤ off ∧ off < 0x0A0 then .pers ⟨(off - 0x090) / 4, by omega⟩
  else if h : 0x100 ≤ off ∧ off < 0x180 then .inbuf ⟨(off - 0x100) / 4, by omega⟩
  else if h : 0x180 ≤ off ∧ off < 0x1C0 then .dout ⟨(off - 0x180) / 4, by omega⟩
  else .reserved

/-- R31: the constant ID register: WORD_BITS, BLOCK_BYTES, MAX_DIGEST and ROUNDS, from bit 0 up. -/
def idReg (V : Variant) : BitVec 32 :=
  BitVec.ofNat 8 V.rounds ++ BitVec.ofNat 8 V.maxDigest ++ BitVec.ofNat 8 V.blockBytes ++ BitVec.ofNat 8 V.wordBits

/-- R36: OUTLEN. -/
def Engine.outlenReg {V : Variant} (e : Engine V) : BitVec 32 := (0 : BitVec 24) ++ BitVec.ofNat 8 e.output.outlen

/-- R37: PARAM: KEY_LEN above DIGEST_SIZE. -/
def Engine.paramReg {V : Variant} (e : Engine V) : BitVec 32 :=
  (0 : BitVec 16) ++ BitVec.ofNat 8 e.params.kl ++ BitVec.ofNat 8 e.params.dl

/-- R38: `Tk`, 32 bits of the counter, 0 beyond its width. -/
def counterReg {V : Variant} (t : Counter V) (k : Nat) : BitVec 32 :=
  if 32 * k < V.counterBits then t.extractLsb' (32 * k) 32 else 0

/-- R69, R63: what a read of a register returns while `busy = 0`. -/
def Engine.readReg {V : Variant} (e : Engine V) : Reg → BitVec 32
  | .id => idReg V
  | .cfg => e.staging.cfg
  | .cfglen => e.staging.cfglen
  | .cmd => 0
  | .status => e.status
  | .outlen => e.outlenReg
  | .param => e.paramReg
  | .counter k => counterReg e.hash.t k
  | .key _ => 0
  | .salt _ => 0
  | .pers j => packedReg e.staging.perss j
  | .inbuf j => packedReg e.staging.inbuf j
  | .dout j => packedReg e.output.dout j
  | .reserved => 0

/-- R69, R63, R72: the engine after a write to a register while `busy = 0`. -/
def Engine.writeReg {V : Variant} (e : Engine V) (r : Reg) (x : BitVec 32) : Engine V :=
  match r with
  | .cfg => { e with staging := { e.staging with cfg := x } }
  | .cfglen => { e with staging := { e.staging with cfglen := x } }
  | .cmd => e.latchCommand x
  | .key j => { e with staging := { e.staging with keys := storeReg e.staging.keys j x } }
  | .salt j => { e with staging := { e.staging with salts := storeReg e.staging.salts j x } }
  | .pers j => { e with staging := { e.staging with perss := storeReg e.staging.perss j x } }
  | .inbuf j => { e with staging := { e.staging with inbuf := storeReg e.staging.inbuf j x } }
  | .id => e
  | .status => e
  | .outlen => e
  | .param => e
  | .counter _ => e
  | .dout _ => e
  | .reserved => e

/-- R61: the offset names a byte of the window; an access elsewhere does not reach the engine. -/
def inWindow (off : Nat) : Bool := off < Config.windowBytes

/-- R64: the one kind of access the engine admits. -/
def admitted (off width : Nat) : Bool := width == Config.busBits && off % 4 == 0

/-- R65: where byte lane `k` of the register at `off` stands in the host's address map. -/
def laneAddress (off k : Nat) : Nat := Config.engineBase + off + k

/-- R61: the window offset of a host byte address, none outside the window. -/
def windowOffset (addr : Nat) : Option Nat :=
  if Config.engineBase ≤ addr ∧ addr < Config.engineBase + Config.windowBytes then some (addr - Config.engineBase) else none

/-- R71: what a read of a window register returns while `busy = 1`: a free value, with bit 0 set for STATUS. -/
def busyValue (r : Reg) (draw : Nat) : BitVec 32 :=
  match r with
  | .status => Config.busyRead draw ||| 1
  | _ => Config.busyRead draw

/-- R61, R64, R71, R69: the value of a host read, or the fault it raises. A read outside the window gets whatever the
platform returns (assumption 6). -/
def State.readValue (s : State) (off width : Nat) : Except Fault (BitVec 32) :=
  if inWindow off = false then .ok (Config.outsideRead s.host.draws)
  else if admitted off width = false then .error (.busFault off width)
  else if s.engine.latch.busy then .ok (busyValue (regAt off) s.host.draws)
  else .ok (s.engine.readReg (regAt off))

/-- The read takes a free value: it is outside the window, or the engine is busy (R71). -/
def State.readDraws (s : State) (off : Nat) : Bool := !inWindow off || s.engine.latch.busy

/-- R62: the offsets a host uses by name. -/
def offCfg : Nat := 0x004
/-- R62. -/
def offCfglen : Nat := 0x008
/-- R62. -/
def offCmd : Nat := 0x00C
/-- R62. -/
def offStatus : Nat := 0x010
/-- R62. -/
def offOutlen : Nat := 0x014
/-- R62. -/
def offKey : Nat := 0x040
/-- R62. -/
def offSalt : Nat := 0x080
/-- R62. -/
def offPers : Nat := 0x090
/-- R62. -/
def offInbuf : Nat := 0x100
/-- R62. -/
def offDout : Nat := 0x180

/-- R284: after a read of `off` that returned `x`, the host still waits for a STATUS read with BUSY = 0. -/
def awaitingAfterRead (awaiting : Bool) (off : Nat) (x : BitVec 32) : Bool :=
  awaiting && !(off == offStatus && !x.getLsbD 0)

/-- R284: after a write of `off`, it waits for one: a CMD write asks for one more. -/
def awaitingAfterWrite (awaiting : Bool) (off : Nat) : Bool := awaiting || off == offCmd

/-- R70, R284: a read changes nothing but the host's record of what its reads returned (and the count of draws). -/
def State.recordRead (s : State) (off : Nat) (x : BitVec 32) : State :=
  s.withHost { s.host with
    observed := s.host.observed ++ [x]
    draws := if s.readDraws off then s.host.draws + 1 else s.host.draws
    awaiting := awaitingAfterRead s.host.awaiting off x }

/-- R284: a write that reaches the engine leaves in the host's record whether it was a CMD write. -/
def State.recordWrite (s : State) (off : Nat) : State :=
  s.withHost { s.host with awaiting := awaitingAfterWrite s.host.awaiting off }

/-- One host read (R13 `MemRead`). -/
def hostRead (s : State) (off width : Nat) : Host.Outcome State Fault Refusal :=
  match s.readValue off width with
  | .ok x => .next (s.recordRead off x)
  | .error F => .fault F

/-- One host write (R13 `MemWrite`): outside the window it does not reach the engine (R61); a width or offset the
engine does not admit is a fault (R64), and so is any write while busy (R71); assumption 7 orders the two faults. -/
def hostWrite (s : State) (off width : Nat) (x : BitVec 32) : Host.Outcome State Fault Refusal :=
  if inWindow off = false then .next s
  else if admitted off width = false then .fault (.busFault off width)
  else if s.engine.latch.busy then .fault (.hostWriteWhileBusy off)
  else .next ((s.recordWrite off).withEngine (s.engine.writeReg (regAt off) x))

/-- R103: one pass of the WAIT loop: a STATUS read; while bit 0 of the value is 1 the loop goes on, and `rest` is what
the host has left after it. -/
def hostPoll (s : State) (rest : List HostOp) : Host.Outcome State Fault Refusal :=
  match s.readValue offStatus Config.busBits with
  | .ok x =>
    let s' := s.recordRead offStatus x
    .next (if x.getLsbD 0 then s' else s'.withHost { s'.host with program := rest })
  | .error F => .fault F

/-- R74: the host's next operation, in program order; a host with nothing left to do does nothing (assumption 3). -/
def hostStep (s : State) : Host.Outcome State Fault Refusal :=
  match s.host.program with
  | [] => .next s
  | .read off width :: rest => hostRead (s.withHost { s.host with program := rest }) off width
  | .write off width x :: rest => hostWrite (s.withHost { s.host with program := rest }) off width x
  | .wait :: rest => hostPoll s rest

/-- R284: the host program's run has ended: the host has performed its last operation, and a STATUS read has returned
BUSY = 0 after its last CMD write. A program without a CMD write ends with its last operation (assumption 21). -/
def State.runEnded (s : State) : Bool := s.host.program.isEmpty && !s.host.awaiting

/-- R284: the observation of a run that has ended in `s`: the values its reads returned, in order; none before its end. -/
def State.observation (s : State) : Option (List (BitVec 32)) :=
  if s.runEnded then some s.host.observed else none

/-- R284: the observation of a run from what it came to; a run that faults has none. -/
def observationOf : Host.Outcome State Fault Refusal → Option (List (BitVec 32))
  | .next s => s.observation
  | .fault _ => none
  | .refused _ => none

end Sys2Proof.Machine
end

