-- ==== Sys2Proof/Machine/Step.lean ====
section
/-!
DEFINITION. One step of the machine: the engine's completion step (R275), the host's next operation, or hardware
reset (R270), as the schedule says (R20; assumptions 2 and 3).
-/

namespace Sys2Proof.Machine

/-- R275, R96: the completion step: decode `pend` and execute; a word that is no command completes with
ILLEGAL_COMMAND. It is enabled exactly when `busy = 1`; an idle engine does nothing. -/
def engineStep (s : State) : Host.Outcome State Fault Refusal :=
  if s.engine.latch.busy then
    match decodeWord s.engine.latch.pend with
    | .ok i => exec i s
    | .error _ => complete s (.error .illegalCommand)
  else .next s

/-- R270: hardware reset sets every element of the engine to its reset value; a pending command is abandoned. -/
def hardwareReset (s : State) : Host.Outcome State Fault Refusal :=
  .next (s.withEngine (Engine.reset s.variant))

/-- The move of one agent. -/
def moveOf (turn : Turn) (s : State) : Host.Outcome State Fault Refusal :=
  match turn with
  | .host => hostStep s
  | .engine => engineStep s
  | .hardwareReset => hardwareReset s

/-- Whose turn it is: the schedule's first entry; where it has none, a busy engine's, and else the host's. -/
def State.turn (s : State) : Turn :=
  match s.host.schedule with
  | turn :: _ => turn
  | [] => if s.engine.latch.busy then .engine else .host

/-- The state with its schedule's first entry taken. -/
def State.takeTurn (s : State) : State := s.withHost { s.host with schedule := s.host.schedule.tail }

/-- One step. -/
def step (s : State) : Host.Outcome State Fault Refusal := moveOf s.turn s.takeTurn

/-- The state in which `step` completes exactly the command word `w`: the word latched, `busy` set, as after the
host's CMD write (R72), and the next turn the engine's. -/
def State.withFetchWord (s : State) (nbits w : Nat) : State :=
  let s := s.withEngine (s.engine.latchCommand (tableWord nbits w))
  s.withHost { s.host with schedule := .engine :: s.host.schedule }

end Sys2Proof.Machine
end

