-- ==== Sys2Proof/Machine/HostProgram.lean ====
section
/-!
DEFINITION. The host's language (R100 to R106): each pseudo-instruction expands to a fixed sequence of the host
operations of `HostOp`. An expansion is none where the spec does not define it: a string longer than its staging
registers, a number too wide for its field, a command line with no word (assumption 16).
-/

namespace Sys2Proof.Machine

/-- R101: `W off, val`. -/
def hostW (off : Nat) (x : BitVec 32) : HostOp := .write off Config.busBits x

/-- R101: `R off`. -/
def hostR (off : Nat) : HostOp := .read off Config.busBits

/-- R101: `.cmd word`: the word written to CMD, then WAIT. -/
def cmdOps (c : BitVec 32) : List HostOp := [hostW offCmd c, .wait]

/-- R101: a command line: the command's word, then WAIT. DESIGN CHOICE (assumption 16): a line `ABSORB n` with `n > 255`
has no word (R93), so it has no expansion. -/
def commandOps (i : Instr) : Option (List HostOp) := if i.wellFormed then some (cmdOps (encode i)) else none

/-- R102: how many registers a string of `n` bytes fills. -/
def regsFor (n : Nat) : Nat := (n + 3) / 4

/-- R66, R102: register `j` of a byte string, zero-filled past its end. -/
def stringReg (bs : List Byte) (j : Nat) : BitVec 32 :=
  bs.getD (4 * j + 3) 0 ++ bs.getD (4 * j + 2) 0 ++ bs.getD (4 * j + 1) 0 ++ bs.getD (4 * j) 0

/-- R102: a loader: the registers from `base` on, one write each, for a string of at most `limit` bytes. -/
def loadOps (base limit : Nat) (bs : List Byte) : Option (List HostOp) :=
  if bs.length ≤ limit then
    some ((List.range (regsFor bs.length)).map fun j => hostW (base + 4 * j) (stringReg bs j))
  else none

/-- R102: `LOADKEY s`. -/
def loadKey : List Byte → Option (List HostOp) := loadOps offKey 64
/-- R102: `LOADSALT s`. -/
def loadSalt : List Byte → Option (List HostOp) := loadOps offSalt 16
/-- R102: `LOADPERS s`. -/
def loadPers : List Byte → Option (List HostOp) := loadOps offPers 16
/-- R102: `LOADIN s`. -/
def loadIn : List Byte → Option (List HostOp) := loadOps offInbuf 128

/-- R32: a CFG value from its fields, the reserved bits 0. -/
def cfgValue (dlen : Nat) (inBits : Bool) (keylen : Nat) (saltEn persEn : Bool) : BitVec 32 :=
  (0 : BitVec 6) ++ BitVec.ofBool persEn ++ BitVec.ofBool saltEn ++ (0 : BitVec 1) ++ BitVec.ofNat 7 keylen
    ++ (0 : BitVec 5) ++ BitVec.ofBool inBits ++ BitVec.ofNat 10 dlen

/-- R33: a CFGLEN value from its fields, the reserved bits 0. -/
def cfglenValue (saltLen persLen : Nat) : BitVec 32 :=
  (0 : BitVec 16) ++ BitVec.ofNat 8 persLen ++ BitVec.ofNat 8 saltLen

/-- The writes of CFG and CFGLEN, where every number fits its field. -/
def configOps (dlen : Nat) (inBits : Bool) (keylen : Nat) (saltEn persEn : Bool) (saltLen persLen : Nat) :
    Option (List HostOp) :=
  if dlen < 2 ^ 10 ∧ keylen < 2 ^ 7 ∧ saltLen < 2 ^ 8 ∧ persLen < 2 ^ 8 then
    some [hostW offCfg (cfgValue dlen inBits keylen saltEn persEn), hostW offCfglen (cfglenValue saltLen persLen)]
  else none

/-- R102: `SETCFG d, k, se, pe [, bits]`. -/
def setCfg (V : Variant) (d k : Nat) (se pe : Bool) (bits : Bool := false) : Option (List HostOp) :=
  configOps d bits k se pe (if se then V.saltBytes else 0) (if pe then V.saltBytes else 0)

/-- The operations of each part in turn, none where a part has none. -/
def joinOps : List (Option (List HostOp)) → Option (List HostOp)
  | [] => some []
  | none :: _ => none
  | some ops :: rest => (joinOps rest).map (ops ++ ·)

/-- R105: `UPDATE s`: one LOADIN and one ABSORB for each chunk of `BL` bytes. -/
def updateOps (V : Variant) (msg : List Byte) : Option (List HostOp) :=
  joinOps ((List.range ((msg.length + V.blockBytes - 1) / V.blockBytes)).map fun c =>
    let chunk := (msg.drop (c * V.blockBytes)).take V.blockBytes
    joinOps [loadIn chunk, commandOps (.absorb chunk.length)])

/-- R106: `READDIGEST`: DOUT0 up to DOUT(ceil(dl/4)-1), then OUTLEN, for a digest of `dl` bytes. The spec's `dl` is in
0..MAXD. DESIGN CHOICE (assumption 16): the length is an argument, and one beyond 64 makes it read on past DOUT15, the
reserved offsets and, beyond 128, offsets outside the window. -/
def readDigest (dl : Nat) : List HostOp :=
  (List.range (regsFor dl)).map (fun j => hostR (offDout + 4 * j)) ++ [hostR offOutlen]

/-- R106: `CONSTRUCT key, d, salt, pers`; an absent argument is none, and an empty key is as an absent one. CFGLEN
takes the strings' own lengths, so that a wrong one reaches CONFIGURE's checks. -/
def constructOps (key : Option (List Byte)) (d : Nat) (salt pers : Option (List Byte)) : Option (List HostOp) :=
  joinOps [
    (if (key.getD []).isEmpty then some [] else loadKey (key.getD [])),
    (match salt with | none => some [] | some bs => loadSalt bs),
    (match pers with | none => some [] | some bs => loadPers bs),
    configOps d false (key.getD []).length salt.isSome pers.isSome (salt.getD []).length (pers.getD []).length,
    commandOps .configure]

/-- R106: `CONSTRUCT_BITS n`, `n` being `8·MAXD` where it is left out. -/
def constructBits (V : Variant) (n : Option Nat) : Option (List HostOp) :=
  joinOps [setCfg V (n.getD (8 * V.maxDigest)) 0 false false true, commandOps .configure]

/-- R104: `HASH msg [, d]`, `d` being `MAXD` where it is left out. DESIGN CHOICE (assumption 16): READDIGEST reads for
`d` bytes where `d` is no legal digest length too, whose CONFIGURE fails and leaves `dl` as it was. -/
def hashOps (V : Variant) (msg : List Byte) (d : Option Nat) : Option (List HostOp) :=
  joinOps [setCfg V (d.getD V.maxDigest) 0 false false, commandOps .configure, updateOps V msg,
    commandOps .finalize, some (readDigest (d.getD V.maxDigest))]

/-- The state with the host operations `ops` still to come: how a host program is given to the model (assumption 4).
DESIGN CHOICE (assumption 21): R284 gives a run's end and not its beginning. The host's record stays as it is, so on a
state that already ran a program the earlier reads count in the observation, and a STATUS read still awaited in the end. -/
def State.withProgram (s : State) (ops : List HostOp) : State :=
  s.withHost { s.host with program := ops }

end Sys2Proof.Machine
end

