-- ==== Sys2Proof/Safety.lean ====
section
/-!
DEFINITION. The terms in which claims about the machine are stated: the invariants of R45, what a safe step and a
reachable state are, a CFG and CFGLEN that CONFIGURE accepts, a message fed byte by byte, and the block-wise hash the
engine is compared with.
-/

namespace Sys2Proof.Machine

/-- A byte array is 0x00 from index `k` on. -/
abbrev zeroFrom {n : Nat} (bs : Vector Byte n) (k : Nat) : Prop := ∀ i : Fin n, k ≤ i.val → bs[i] = 0

/-- R45 (iii): an engine without an instance is blank. -/
structure Engine.Blank {V : Variant} (e : Engine V) : Prop where
  dl : e.params.dl = 0
  kl : e.params.kl = 0
  h : e.hash.h = Vector.replicate 8 0
  t : e.hash.t = 0
  cur : e.hash.cur = 0
  buf : e.hash.buf = zeros _
  saltp : e.params.saltp = false
  persp : e.params.persp = false
  outlen : e.output.outlen = 0

/-- The invariants of R45, with the ranges of R28, R29 and R42 they rest on, and R240 and R44 on `err` and `sticky`.
R45 states them for `busy = 0`; they hold while busy too, since a pending command has changed nothing yet (R72). -/
structure Engine.Inv {V : Variant} (e : Engine V) : Prop where
  /-- R45 (i), R28 -/
  bufferTail : zeroFrom e.hash.buf e.hash.cur
  /-- R28 -/
  cursor : e.hash.cur ≤ V.blockBytes
  /-- R45 (ii), R27 -/
  flag : e.hash.f = 0
  /-- R45 (iii) -/
  blank : e.params.configured = false → e.Blank
  /-- R45 (iv) -/
  digestLength : e.params.configured = true → 1 ≤ e.params.dl
  /-- R45 (iv), R29 -/
  digestBound : e.params.dl ≤ V.maxDigest
  /-- R45 (iv), R29 -/
  keyBound : e.params.kl ≤ V.maxDigest
  /-- R45 (v), R29 -/
  keyTail : zeroFrom e.params.keyr e.params.kl
  /-- R29 -/
  absentSalt : e.params.saltp = false → e.params.saltr = zeros _
  /-- R29 -/
  absentPers : e.params.persp = false → e.params.persr = zeros _
  /-- R45 (vi) -/
  outputLength : e.output.outlen = 0 ∨ e.output.outlen = e.params.dl
  /-- R45 (vi) -/
  outputTail : zeroFrom e.output.dout e.output.outlen
  /-- R240: the reserved codes are never written -/
  errorCode : e.latch.err.toNat ≤ 4
  /-- R44: a completion with an error set `sticky`, and only hardware reset clears it -/
  errorSticky : e.latch.err ≠ 0 → e.latch.sticky = true

/-- The step does not stop. -/
abbrev State.safe (s : State) : Prop := ∃ t, step s = .next t

/-- `t` is reached from `s` by steps that do not stop. -/
inductive Reaches (s : State) : State → Prop where
  | here : Reaches s s
  | onward {t u : State} : Reaches s t → step t = .next u → Reaches s u

/-- R32, R33, R146 to R149, on the numbers CFG and CFGLEN are: CONFIGURE accepts them and they ask for a digest of `d`
bytes and a key of `k` bytes. -/
structure LegalConfig (V : Variant) (cfg cfglen d k : Nat) : Prop where
  reserved11 : cfg / 2 ^ 11 % 2 ^ 5 = 0
  reserved23 : cfg / 2 ^ 23 % 2 = 0
  reserved26 : cfg / 2 ^ 26 = 0
  reservedLen : cfglen / 2 ^ 16 = 0
  inBytes : cfg / 2 ^ 10 % 2 = 0 → cfg % 2 ^ 10 = d
  inBits : cfg / 2 ^ 10 % 2 = 1 → cfg % 2 ^ 10 = 8 * d
  digestLow : 1 ≤ d
  digestHigh : d ≤ V.maxDigest
  keyField : cfg / 2 ^ 16 % 2 ^ 7 = k
  keyHigh : k ≤ V.maxDigest
  salt : cfg / 2 ^ 24 % 2 = 1 → cfglen % 2 ^ 8 = V.saltBytes
  pers : cfg / 2 ^ 25 % 2 = 1 → cfglen / 2 ^ 8 % 2 ^ 8 = V.saltBytes

/-- R90 to R95, on the number a command word is: it is none of the seven commands. -/
def IllegalWord (c : Nat) : Prop :=
  c % 2 ^ 4 = 0 ∨ 8 ≤ c % 2 ^ 4 ∨ c / 2 ^ 4 % 2 ^ 4 ≠ 0 ∨ c / 2 ^ 24 ≠ 0
    ∨ (c % 2 ^ 4 ≠ 2 ∧ c / 2 ^ 8 % 2 ^ 8 ≠ 0) ∨ (c % 2 ^ 4 ≠ 3 ∧ c / 2 ^ 16 % 2 ^ 8 ≠ 0)

/-- ABSORB_BYTE of each byte of a message, in order. -/
def feed : List Byte → State → Host.Outcome State Fault Refusal
  | [], s => .next s
  | b :: rest, s =>
    match exec (.absorbByte b) s with
    | .next t => feed rest t
    | .fault F => .fault F
    | .refused r => .refused r

/-- Block `i` of a byte string, zero-padded to `BL` bytes (R28: padding is stored). -/
def blockAt (V : Variant) (msg : List Byte) (i : Nat) : Vector Byte V.blockBytes :=
  Vector.ofFn fun k => msg.getD (i * V.blockBytes + k.val) 0

/-- How many blocks of a string of `n` bytes come before its last one; an empty string has one block. -/
def blocksBeforeLast (V : Variant) (n : Nat) : Nat := (n - 1) / V.blockBytes

/-- The chain value after the first `k` blocks of a string, each compressed as a non-final block with the counter at its
end (R202). -/
def chainAfter {V : Variant} (h : Vector (Word V) 8) (msg : List Byte) (k : Nat) : Vector (Word V) 8 :=
  (List.range k).foldl (fun h i => compress h (blockAt V msg i) (BitVec.ofNat _ ((i + 1) * V.blockBytes)) false) h

/-- The chain value of a whole string, hashed block by block with no buffer: every block but the last as a non-final
block with the counter at its end (R202), then the last with the string's length (R211, R212). -/
def chainOf {V : Variant} (h : Vector (Word V) 8) (msg : List Byte) : Vector (Word V) 8 :=
  let before := blocksBeforeLast V msg.length
  compress (chainAfter h msg before) (blockAt V msg before) (BitVec.ofNat _ msg.length) true

/-- The hash state is the block-wise fold, from the chain value `h`, of the bytes `msg` absorbed so far: every block
but the last is compressed (R202), the last waits in the buffer (R28), and the counter has the compressed bytes (R26). -/
structure Engine.FoldOf {V : Variant} (e : Engine V) (h : Vector (Word V) 8) (msg : List Byte) : Prop where
  h : e.hash.h = chainAfter h msg (blocksBeforeLast V msg.length)
  t : e.hash.t = BitVec.ofNat _ (blocksBeforeLast V msg.length * V.blockBytes)
  f : e.hash.f = 0
  buf : e.hash.buf = blockAt V msg (blocksBeforeLast V msg.length)
  cur : e.hash.cur = msg.length - blocksBeforeLast V msg.length * V.blockBytes

/-- R200: the bytes a Reinit puts before the message: the zero-padded key block of a keyed instance, else nothing. -/
def keyPrefix {V : Variant} (p : Params V) : List Byte :=
  if 0 < p.kl then (primedBuffer p).toList else []

/-- Two engines that differ at most in `v` and `m` (R24, R25, R48: which no rule reads outside one compression). -/
structure Engine.SameButScratch {V : Variant} (a b : Engine V) : Prop where
  staging : a.staging = b.staging
  latch : a.latch = b.latch
  params : a.params = b.params
  hash : a.hash = b.hash
  output : a.output = b.output

/-- Two outcomes of the same kind, with the same reason, or with states that differ at most in `v` and `m`. -/
def SameButScratch (x y : Host.Outcome State Fault Refusal) : Prop :=
  match x, y with
  | .next s, .next t => ∃ (V : Variant) (a b : Engine V) (h : HostSide), s = ⟨V, a, h⟩ ∧ t = ⟨V, b, h⟩ ∧ a.SameButScratch b
  | .fault F, .fault G => F = G
  | .refused r, .refused q => r = q
  | _, _ => False

/-- R24, R39, R48: two engines that a host cannot tell apart by reading registers: they may differ in the KEY and SALT
staging, the chain value, the flag, the buffer, the retained bytes, `v`, `m`, and the latched word. -/
structure Engine.SameToReader {V : Variant} (a b : Engine V) : Prop where
  cfg : a.staging.cfg = b.staging.cfg
  cfglen : a.staging.cfglen = b.staging.cfglen
  perss : a.staging.perss = b.staging.perss
  inbuf : a.staging.inbuf = b.staging.inbuf
  busy : a.latch.busy = b.latch.busy
  err : a.latch.err = b.latch.err
  sticky : a.latch.sticky = b.latch.sticky
  configured : a.params.configured = b.params.configured
  dl : a.params.dl = b.params.dl
  kl : a.params.kl = b.params.kl
  saltp : a.params.saltp = b.params.saltp
  persp : a.params.persp = b.params.persp
  t : a.hash.t = b.hash.t
  cur : a.hash.cur = b.hash.cur
  output : a.output = b.output

/-- R242: the codes a command can end with. -/
def mayEndWith : Instr → List ErrCode
  | .configure => [.ok, .invalidParameter]
  | .absorbByte _ => [.ok, .notConfigured]
  | .absorb _ => [.ok, .notConfigured, .badLength]
  | .finalize => [.ok, .notConfigured]
  | .reset => [.ok, .notConfigured]
  | .clearKey => [.ok, .notConfigured]
  | .clearSalt => [.ok, .notConfigured]

end Sys2Proof.Machine
end

