-- ==== Sys2Proof/Certificates/Slice0/Obligations.lean ====
section
/-!
DEFINITION. The statements for the provers. Each is about every build variant and every state unless its hypotheses say
otherwise; `⟨V, e, hs⟩` is the state of an engine `e` of the variant `V` with the host's side `hs`, so that an equation
between such states says what changes and that nothing else does.
-/

open Sys2Proof Sys2Proof.Machine

/-! ## Reset, invariants and whole-machine rules -/

/-- R47, R45: right after reset, in either variant, the invariants hold. -/
def Obligations.ResetStateMeetsInvariants : Prop :=
  ∀ V : Variant, (State.resetOf V).engine.Inv

/-- R45: every step that does not stop keeps the invariants, from every state that meets them. -/
def Obligations.EveryStepKeepsInvariants : Prop :=
  ∀ s t : State, s.engine.Inv → step s = .next t → t.engine.Inv

/-- R270, R47: hardware reset sets every state element of the engine to its reset value, whatever is pending, and then
ID reads its constant and every other register of the window, STATUS among them, reads 0. That the host's side stays as it
was, but for the turn taken, is the model's choice and no rule (assumption 15, DEDUCED; turns: assumption 2). -/
def Obligations.HardwareResetBlanksTheEngine : Prop :=
  ∀ (V : Variant) (e : Engine V) (hs : HostSide) (rest : List Turn), hs.schedule = .hardwareReset :: rest →
    step ⟨V, e, hs⟩ = .next ⟨V, Engine.reset V, { hs with schedule := rest }⟩ ∧
    (Engine.reset V).readReg .id = idReg V ∧ ∀ r : Reg, r ≠ .id → (Engine.reset V).readReg r = 0

/-- R44: `sticky` is set by a completion with an error, and only hardware reset clears it. -/
def Obligations.StickySetByErrorsClearedByResetOnly : Prop :=
  ∀ s t : State, step s = .next t →
    (s.turn ≠ .hardwareReset → s.engine.latch.sticky = true → t.engine.latch.sticky = true) ∧
    (s.turn = .engine → s.engine.latch.busy = true →
      (t.engine.latch.sticky = true ↔ s.engine.latch.sticky = true ∨ t.engine.latch.err ≠ 0))

/-- R40: only a successful CONFIGURE sets `configured`, and nothing but hardware reset clears it. -/
def Obligations.ConfiguredSetByConfigureClearedByResetOnly : Prop :=
  ∀ s t : State, step s = .next t →
    (s.turn ≠ .hardwareReset → s.engine.params.configured = true → t.engine.params.configured = true) ∧
    (s.engine.params.configured = false → t.engine.params.configured = true →
      s.turn = .engine ∧ s.engine.latch.busy = true ∧ s.engine.latch.pend = 0x00000001#32 ∧ t.engine.latch.err = 0)

/-- R29: the retained parameters change at a step that is neither hardware reset nor the completion of a CONFIGURE without
error only as R29 lists: the completion of a CLEAR_KEY may zero the retained key, that of a CLEAR_SALT the retained salt,
and nothing else of them changes, at a host's step or an idle turn nothing at all. -/
def Obligations.RetainedParametersChangeOnlyAsListed : Prop :=
  ∀ (V : Variant) (e e' : Engine V) (hs hs' : HostSide),
    step ⟨V, e, hs⟩ = .next ⟨V, e', hs'⟩ → State.turn ⟨V, e, hs⟩ ≠ .hardwareReset →
    ¬ (State.turn ⟨V, e, hs⟩ = .engine ∧ e.latch.busy = true ∧ e.latch.pend = 0x00000001#32 ∧ e'.latch.err = 0) →
    e'.params.configured = e.params.configured ∧ e'.params.dl = e.params.dl ∧ e'.params.kl = e.params.kl ∧
    e'.params.saltp = e.params.saltp ∧ e'.params.persp = e.params.persp ∧ e'.params.persr = e.params.persr ∧
    (e'.params.keyr = e.params.keyr ∨ (State.turn ⟨V, e, hs⟩ = .engine ∧ e.latch.busy = true ∧
      e.latch.pend = 0x00000006#32 ∧ e'.params.keyr = zeros _)) ∧
    (e'.params.saltr = e.params.saltr ∨ (State.turn ⟨V, e, hs⟩ = .engine ∧ e.latch.busy = true ∧
      e.latch.pend = 0x00000007#32 ∧ e'.params.saltr = zeros _))

/-- R26, R202: a step that does not stop leaves the counter as it is, adds `BL` to it, or sets it to 0 (a Reinit, at the
end of FINALIZE too, or hardware reset). -/
def Obligations.CounterStaysAddsBlockOrZero : Prop :=
  ∀ (V : Variant) (e e' : Engine V) (hs hs' : HostSide), step ⟨V, e, hs⟩ = .next ⟨V, e', hs'⟩ →
    e'.hash.t = e.hash.t ∨ e'.hash.t = ctrAdd e.hash.t V.blockBytes ∨ e'.hash.t = 0

/-- R42: DOUT and OUTLEN change only when FINALIZE or CONFIGURE completes without error, or at hardware reset. -/
def Obligations.DigestOutputLifetime : Prop :=
  ∀ s t : State, step s = .next t → t.engine.output ≠ s.engine.output →
    s.turn = .hardwareReset ∨
    (s.turn = .engine ∧ s.engine.latch.busy = true ∧ t.engine.latch.err = 0 ∧
      (s.engine.latch.pend = 0x00000001#32 ∨ s.engine.latch.pend = 0x00000004#32))

/-- R39, R41, R222, R226: a completion step leaves the staging registers as they are, but that CLEAR_KEY zeroes KEY and
CLEAR_SALT zeroes SALT. -/
def Obligations.CompletionLeavesStaging : Prop :=
  ∀ (V : Variant) (e e' : Engine V) (hs hs' : HostSide), step ⟨V, e, hs⟩ = .next ⟨V, e', hs'⟩ →
    State.turn ⟨V, e, hs⟩ = .engine →
    e'.staging = e.staging ∨
    (e.latch.pend = 0x00000006#32 ∧ e'.staging = { e.staging with keys := zeros 64 }) ∨
    (e.latch.pend = 0x00000007#32 ∧ e'.staging = { e.staging with salts := zeros 16 })

/-- R24, R48, R181: what `v` and `m` hold between commands reaches nothing else: two states that differ in them alone
step to states that differ in them alone, or stop for the same reason. -/
def Obligations.WorkingStateNeverReachesAnythingElse : Prop :=
  ∀ (V : Variant) (a b : Engine V) (hs : HostSide), a.SameButScratch b →
    SameButScratch (step ⟨V, a, hs⟩) (step ⟨V, b, hs⟩)

/-! ## Command words -/

/-- R97: decoding the word of a well-formed command gives the command back, as a word, as bytes with more bytes after
them, and as a table word. -/
def Obligations.DecodeOfEncode : Prop :=
  ∀ i : Instr, i.wellFormed = true →
    decodeWord (encode i) = .ok i ∧ (∀ rest, decodeBytes (wordBytes (encode i) ++ rest) = .ok (i, rest)) ∧
    decodeTableWord 32 (encode i).toNat = some i

/-- R97: a word that decodes is the one word of its command, and the command is well formed. -/
def Obligations.EncodeOfDecode : Prop :=
  ∀ (c : BitVec 32) (i : Instr), decodeWord c = .ok i → encode i = c ∧ i.wellFormed = true

/-- R97, R95: a word decodes exactly when it matches a row of the mask and match table; no word matches two rows; and
the row is that of the decoded command's mnemonic. -/
def Obligations.DecodesExactlyTheTableRows : Prop :=
  ∀ c : BitVec 32,
    ((∃ i, decodeWord c = .ok i) ↔ ∃ r ∈ commandRows, r.matchesWord c = true) ∧
    (∀ r ∈ commandRows, ∀ q ∈ commandRows, r.matchesWord c = true → q.matchesWord c = true → r = q) ∧
    (∀ i, decodeWord c = .ok i → ∃ r ∈ commandRows, r.matchesWord c = true ∧ r.mnemonic = i.mnemonic)

/-- R97, R95: words written out from the spec's encoding of each command, and two reserved words. -/
def Obligations.SampleWordsDecode : Prop :=
  decodeWord 0x00000001#32 = .ok .configure ∧ decodeWord 0x00006102#32 = .ok (.absorbByte 0x61#8) ∧
  decodeWord 0x00400003#32 = .ok (.absorb 64) ∧ decodeWord 0x00000003#32 = .ok (.absorb 0) ∧
  decodeWord 0x00000004#32 = .ok .finalize ∧ decodeWord 0x00000005#32 = .ok .reset ∧
  decodeWord 0x00000006#32 = .ok .clearKey ∧ decodeWord 0x00000007#32 = .ok .clearSalt ∧
  decodeWord 0x00000000#32 = .error .reservedOpcode ∧ decodeWord 0x00000008#32 = .error .reservedOpcode

/-- R275, R96: on the engine's turn a busy engine whose latched word decodes to `i` runs exactly `i`; the step adds only
that the turn is taken from the schedule. R275 gives an idle engine no step: that its turn is a stutter, which only takes
the turn, is the model's choice (assumption 3, DEDUCED), and so are the turns themselves (assumption 2, DESIGN CHOICE). -/
def Obligations.StepRunsDecodedCommand : Prop :=
  ∀ (s : State) (i : Instr), s.turn = .engine →
    (s.engine.latch.busy = true → decodeWord s.engine.latch.pend = .ok i → step s = exec i s.takeTurn) ∧
    (s.engine.latch.busy = false → step s = .next s.takeTurn)

/-- The model's own device, no rule of the spec (assumption 4, DESIGN CHOICE: the placing of the word and the turn given
to the engine): a table word placed with `withFetchWord` is what the very next step runs, with the word latched and `busy`
set as R72 says of a CMD write. -/
def Obligations.PlacedWordRunsNext : Prop :=
  ∀ (s : State) (nbits w : Nat) (i : Instr), decodeTableWord nbits w = some i →
    step (s.withFetchWord nbits w) = exec i (s.withEngine (s.engine.latchCommand (tableWord nbits w)))

/-- R94, R95: a word that is none of the seven commands completes with ILLEGAL_COMMAND and no other effect; every other
word is a command. -/
def Obligations.IllegalWordsCompleteWithIllegalCommand : Prop :=
  ∀ (V : Variant) (e : Engine V) (hs : HostSide), State.turn ⟨V, e, hs⟩ = .engine → e.latch.busy = true →
    (IllegalWord e.latch.pend.toNat →
      step ⟨V, e, hs⟩ = .next ⟨V, { e with latch := { e.latch with err := 2, sticky := true, busy := false } },
        { hs with schedule := hs.schedule.tail }⟩) ∧
    (¬ IllegalWord e.latch.pend.toNat → ∃ i, decodeWord e.latch.pend = .ok i)

/-! ## Completion and errors -/

/-- R275, R242: every command, from every state, answers a next state with `busy = 0` and one of the codes the spec
allows it, with the host's side as it was. -/
def Obligations.EveryCommandCompletes : Prop :=
  ∀ (i : Instr) (V : Variant) (e : Engine V) (hs : HostSide), ∃ (e' : Engine V) (E : ErrCode),
    exec i ⟨V, e, hs⟩ = .next ⟨V, e', hs⟩ ∧ E ∈ mayEndWith i ∧ e'.latch.err = E.code ∧ e'.latch.busy = false

/-- R243: a completion with an error leaves the engine exactly as it was before the CMD write, but for `err`, `sticky`,
`busy` and `pend`. -/
def Obligations.ErrorCompletionChangesNothingElse : Prop :=
  ∀ (V : Variant) (e e' : Engine V) (c : BitVec 32) (hs : HostSide),
    engineStep ⟨V, e.latchCommand c, hs⟩ = .next ⟨V, e', hs⟩ → e'.latch.err ≠ 0 →
    e' = { e with latch := ⟨false, c, e'.latch.err, true⟩ }

/-- R96, R244: while there is no instance every command but CONFIGURE completes with NOT_CONFIGURED and nothing else
changes, an ABSORB longer than a block among them. -/
def Obligations.CommandsNeedAnInstance : Prop :=
  ∀ (i : Instr) (V : Variant) (e : Engine V) (hs : HostSide), i ≠ .configure → e.params.configured = false →
    exec i ⟨V, e, hs⟩ =
      .next ⟨V, { e with latch := { e.latch with err := 3, sticky := true, busy := false } }, hs⟩

/-! ## CONFIGURE -/

/-- R146, R150: CONFIGURE on a legal CFG and CFGLEN latches the parameters, drops the old digest and starts the
instance; the staging registers and the working state stay. -/
def Obligations.ConfigureStartsAnInstance : Prop :=
  ∀ (V : Variant) (e : Engine V) (hs : HostSide) (d k : Nat),
    LegalConfig V e.staging.cfg.toNat e.staging.cfglen.toNat d k →
    ∃ p : Params V,
      exec .configure ⟨V, e, hs⟩ = .next ⟨V,
        { staging := e.staging, latch := { e.latch with err := 0, busy := false }, params := p,
          hash := { h := paramInit p, t := 0, f := 0, buf := primedBuffer p, cur := if 0 < k then V.blockBytes else 0 },
          scratch := e.scratch, output := { dout := zeros 64, outlen := 0 } }, hs⟩ ∧
      p.configured = true ∧ p.dl = d ∧ p.kl = k ∧
      (p.saltp = true ↔ e.staging.cfg.toNat / 2 ^ 24 % 2 = 1) ∧ (p.persp = true ↔ e.staging.cfg.toNat / 2 ^ 25 % 2 = 1) ∧
      (∀ (i : Nat) (_ : i < V.maxDigest) (_ : i < 64), p.keyr[i] = if i < k then e.staging.keys[i] else 0) ∧
      (∀ (i : Nat) (_ : i < V.saltBytes) (_ : i < 16), p.saltr[i] = if p.saltp then e.staging.salts[i] else 0) ∧
      (∀ (i : Nat) (_ : i < V.saltBytes) (_ : i < 16), p.persr[i] = if p.persp then e.staging.perss[i] else 0)

/-- R151, R146: a CONFIGURE on a CFG and CFGLEN that are not legal completes with INVALID_PARAMETER and changes nothing
else: an instance that was there stays. -/
def Obligations.FailedConfigureKeepsTheInstance : Prop :=
  ∀ (V : Variant) (e : Engine V) (hs : HostSide),
    (∀ d k, ¬ LegalConfig V e.staging.cfg.toNat e.staging.cfglen.toNat d k) →
    exec .configure ⟨V, e, hs⟩ =
      .next ⟨V, { e with latch := { e.latch with err := 1, sticky := true, busy := false } }, hs⟩

/-- R154: for every digest length `i` in `1..MAXD`, CFG = `i` and CFG = DLEN_IN_BITS with DLEN = `8i` leave the same
state but for CFG itself, whatever lengths CFGLEN holds (R149 ignores them). -/
def Obligations.LengthInBitsConstructsTheSameInstance : Prop :=
  ∀ (V : Variant) (e : Engine V) (hs : HostSide) (i : Nat), 1 ≤ i → i ≤ V.maxDigest →
    e.staging.cfglen.toNat < 2 ^ 16 →
    ∃ e' : Engine V,
      exec .configure ⟨V, { e with staging := { e.staging with cfg := BitVec.ofNat 32 i } }, hs⟩ =
        .next ⟨V, { e' with staging := { e'.staging with cfg := BitVec.ofNat 32 i } }, hs⟩ ∧
      exec .configure ⟨V, { e with staging := { e.staging with cfg := BitVec.ofNat 32 (2 ^ 10 + 8 * i) } }, hs⟩ =
        .next ⟨V, { e' with staging := { e'.staging with cfg := BitVec.ofNat 32 (2 ^ 10 + 8 * i) } }, hs⟩ ∧
      e'.latch.err = 0 ∧ e'.params.dl = i ∧ e'.params.kl = 0

/-- R142: the first parameter word is the number its formula says, the fields not overlapping. With it, the words of
ParamInit in both variants (R143, R144): `h[0]` is `IV[0]` xor that number, `h[1]` to `h[3]` are the IV's, and `h[4]` to
`h[7]` are the IV's xor the two words of the salt and the two of the personalization, whose bytes, lowest first, are the
retained ones in order where present and zero where absent. -/
def Obligations.ParameterWordAndChainValue : Prop :=
  (∀ (V : Variant) (dl kl : Nat), dl ≤ 64 → kl ≤ 64 →
    (paramWord V dl kl).toNat = dl + 256 * kl + 0x01010000) ∧
  ∀ (V : Variant) (p : Params V), p.dl ≤ 64 → p.kl ≤ 64 → ∃ s₀ s₁ q₀ q₁ : Word V,
    paramInit p = #v[(iv V)[0] ^^^ BitVec.ofNat _ (p.dl + 256 * p.kl + 0x01010000), (iv V)[1], (iv V)[2], (iv V)[3],
      (iv V)[4] ^^^ s₀, (iv V)[5] ^^^ s₁, (iv V)[6] ^^^ q₀, (iv V)[7] ^^^ q₁] ∧
    ∀ (i : Nat) (_ : i < V.wordBytes) (_ : V.wordBytes + i < V.saltBytes),
      s₀.toNat / 256 ^ i % 256 = (if p.saltp then p.saltr[i].toNat else 0) ∧
      s₁.toNat / 256 ^ i % 256 = (if p.saltp then p.saltr[V.wordBytes + i].toNat else 0) ∧
      q₀.toNat / 256 ^ i % 256 = (if p.persp then p.persr[i].toNat else 0) ∧
      q₁.toNat / 256 ^ i % 256 = (if p.persp then p.persr[V.wordBytes + i].toNat else 0)

/-! ## Absorbing -/

/-- R203, R205: ABSORB_BYTE with room in the buffer stores the byte at the cursor and moves the cursor; no compression
runs and nothing else changes. -/
def Obligations.AbsorbByteStoresWithRoom : Prop :=
  ∀ (V : Variant) (e : Engine V) (hs : HostSide) (b : Byte), e.params.configured = true →
    (h : e.hash.cur < V.blockBytes) →
    exec (.absorbByte b) ⟨V, e, hs⟩ = .next ⟨V,
      { e with
        latch := { e.latch with err := 0, busy := false }
        hash := { e.hash with buf := e.hash.buf.set e.hash.cur b, cur := e.hash.cur + 1 } }, hs⟩

/-- R202, R203: ABSORB_BYTE on a full buffer adds `BL` to the counter, then compresses the buffer as a non-final block
with that counter, and the byte starts a new zero-padded buffer. R180 gives `v` and `m` the compression's working values;
that they still hold them afterwards is the model's choice (assumption 8, DESIGN CHOICE). -/
def Obligations.AbsorbByteCompressesFullBuffer : Prop :=
  ∀ (V : Variant) (e : Engine V) (hs : HostSide) (b : Byte), e.params.configured = true → e.hash.cur = V.blockBytes →
    ∃ buf : Vector Byte V.blockBytes,
      exec (.absorbByte b) ⟨V, e, hs⟩ = .next ⟨V,
        { e with
          latch := { e.latch with err := 0, busy := false }
          hash := { e.hash with
            h := compress e.hash.h e.hash.buf (ctrAdd e.hash.t V.blockBytes) false
            t := ctrAdd e.hash.t V.blockBytes, buf := buf, cur := 1 }
          scratch :=
            { v := workingFinal e.hash.h e.hash.buf (ctrAdd e.hash.t V.blockBytes) false, m := messageWords e.hash.buf } },
        hs⟩ ∧
      ∀ (i : Nat) (_ : i < V.blockBytes), buf[i] = if i = 0 then b else 0

/-- R206, R207, R209: ABSORB of `n` bytes that fit into the buffer copies `inbuf[0..n)` to the cursor; no compression
runs, and for `n = 0` nothing changes but the completion itself. -/
def Obligations.AbsorbThatFitsOnlyBuffers : Prop :=
  ∀ (V : Variant) (e : Engine V) (hs : HostSide) (n : Nat), e.params.configured = true →
    e.hash.cur + n ≤ V.blockBytes →
    ∃ buf : Vector Byte V.blockBytes,
      exec (.absorb n) ⟨V, e, hs⟩ = .next ⟨V,
        { e with
          latch := { e.latch with err := 0, busy := false }
          hash := { e.hash with buf := buf, cur := e.hash.cur + n } }, hs⟩ ∧
      ∀ (i : Nat) (_ : i < V.blockBytes) (_ : i - e.hash.cur < 128),
        buf[i] = if e.hash.cur ≤ i ∧ i < e.hash.cur + n then e.staging.inbuf[i - e.hash.cur] else e.hash.buf[i]

/-- R209, R202: ABSORB of `n ≤ BL` bytes that do not fit compresses exactly one block, the buffer filled up from INBUF,
with the counter advanced by `BL`; the bytes left start the new zero-padded buffer. R180 gives `v` and `m` the
compression's working values; that they still hold them afterwards is the model's choice (assumption 8, DESIGN CHOICE). -/
def Obligations.AbsorbThatSpillsCompressesOneBlock : Prop :=
  ∀ (V : Variant) (e : Engine V) (hs : HostSide) (n : Nat), e.params.configured = true →
    n ≤ V.blockBytes → e.hash.cur ≤ V.blockBytes → V.blockBytes < e.hash.cur + n →
    ∃ block buf : Vector Byte V.blockBytes,
      exec (.absorb n) ⟨V, e, hs⟩ = .next ⟨V,
        { e with
          latch := { e.latch with err := 0, busy := false }
          hash := { e.hash with
            h := compress e.hash.h block (ctrAdd e.hash.t V.blockBytes) false
            t := ctrAdd e.hash.t V.blockBytes, buf := buf, cur := e.hash.cur + n - V.blockBytes }
          scratch :=
            { v := workingFinal e.hash.h block (ctrAdd e.hash.t V.blockBytes) false, m := messageWords block } }, hs⟩ ∧
      (∀ (i : Nat) (_ : i < V.blockBytes) (_ : i - e.hash.cur < 128),
        block[i] = if i < e.hash.cur then e.hash.buf[i] else e.staging.inbuf[i - e.hash.cur]) ∧
      (∀ (i : Nat) (_ : i < V.blockBytes),
        buf[i] = if i < e.hash.cur + n - V.blockBytes then e.staging.inbuf[V.blockBytes - e.hash.cur + i]?.getD 0 else 0)

/-- R93, R240: ABSORB of more than `BL` bytes completes with BAD_LENGTH and has no effect. -/
def Obligations.AbsorbTooLongIsBadLength : Prop :=
  ∀ (V : Variant) (e : Engine V) (hs : HostSide) (n : Nat), e.params.configured = true → V.blockBytes < n →
    exec (.absorb n) ⟨V, e, hs⟩ =
      .next ⟨V, { e with latch := { e.latch with err := 4, sticky := true, busy := false } }, hs⟩

/-- R208: ABSORB gives exactly what ABSORB_BYTE of the same bytes one after another gives. -/
def Obligations.AbsorbEqualsItsBytesInTurn : Prop :=
  ∀ (V : Variant) (e : Engine V) (hs : HostSide) (n : Nat), e.params.configured = true → 1 ≤ n → n ≤ V.blockBytes →
    exec (.absorb n) ⟨V, e, hs⟩ = feed (e.staging.inbuf.toList.take n) ⟨V, e, hs⟩

/-! ## FINALIZE, RESET and the clears -/

/-- R210 to R215, R68: FINALIZE counts the buffered bytes, compresses the buffer as the final block, puts the digest
into DOUT, byte `j` being byte `j mod wb` of chain word `j div wb`, zeroises and starts the instance again. R214 names `v`
and not `m`: that `m` keeps the message words R180 gave it is the model's choice (assumption 8, DESIGN CHOICE). -/
def Obligations.FinalizeWritesTheDigestAndRestarts : Prop :=
  ∀ (V : Variant) (e : Engine V) (hs : HostSide), e.params.configured = true → e.params.dl ≤ V.maxDigest →
    ∃ dout : Vector Byte 64,
      exec .finalize ⟨V, e, hs⟩ = .next ⟨V,
        { staging := e.staging, latch := { e.latch with err := 0, busy := false }, params := e.params,
          hash :=
            { h := paramInit e.params, t := 0, f := 0, buf := primedBuffer e.params,
              cur := if 0 < e.params.kl then V.blockBytes else 0 },
          scratch := { v := Vector.replicate 16 0, m := messageWords e.hash.buf },
          output := { dout := dout, outlen := e.params.dl } }, hs⟩ ∧
      ∀ (j : Nat) (_ : j < 64),
        (j < e.params.dl → ∃ _ : j / V.wordBytes < 8, dout[j].toNat =
          (compress e.hash.h e.hash.buf (ctrAdd e.hash.t e.hash.cur) true)[j / V.wordBytes].toNat
            / 256 ^ (j % V.wordBytes) % 256) ∧
        (e.params.dl ≤ j → dout[j] = 0)

/-- R208, R216, R202, R211: THE ENGINE HASHES BLOCK BY BLOCK. Every ABSORB_BYTE keeps the hash state the block-wise fold
of the bytes absorbed so far, that byte added. And from a freshly started instance, ABSORB_BYTE of any message and then
FINALIZE leave the digest of the block-wise hash of the key block, if any, and the message: every block but the last
compressed as non-final with the counter at its end, the last zero-padded with the total length. -/
def Obligations.EngineComputesTheBlockwiseHash : Prop :=
  (∀ (V : Variant) (e : Engine V) (hs : HostSide) (h : Vector (Word V) 8) (bytes : List Byte) (b : Byte),
    e.params.configured = true → e.FoldOf h bytes →
    ∃ e' : Engine V, exec (.absorbByte b) ⟨V, e, hs⟩ = .next ⟨V, e', hs⟩ ∧ e'.FoldOf h (bytes ++ [b])) ∧
  ∀ (V : Variant) (e : Engine V) (hs : HostSide) (msg : List Byte), e.params.configured = true →
    e.params.kl ≤ V.maxDigest → e.hash = e.reinit.hash →
    ∃ e₁ e₂ : Engine V,
      feed msg ⟨V, e, hs⟩ = .next ⟨V, e₁, hs⟩ ∧ exec .finalize ⟨V, e₁, hs⟩ = .next ⟨V, e₂, hs⟩ ∧
      e₂.output.outlen = e.params.dl ∧ e₂.params = e.params ∧ e₂.hash = e.hash ∧
      ∀ (j : Nat) (_ : j < 64), e₂.output.dout[j] =
        if j < e.params.dl then digestByte (chainOf (paramInit e.params) (keyPrefix e.params ++ msg)) j else 0

/-- R218: RESET is Reinit and nothing else: the retained parameters, the staging, DOUT and OUTLEN stay. -/
def Obligations.ResetRestartsTheInstance : Prop :=
  ∀ (V : Variant) (e : Engine V) (hs : HostSide), e.params.configured = true →
    exec .reset ⟨V, e, hs⟩ = .next ⟨V,
      { e with
        latch := { e.latch with err := 0, busy := false }
        hash :=
          { h := paramInit e.params, t := 0, f := 0, buf := primedBuffer e.params,
            cur := if 0 < e.params.kl then V.blockBytes else 0 } }, hs⟩

/-- R200: what key priming leaves in the buffer: the retained key and zeros after it. -/
def Obligations.KeyPrimingPadsTheKey : Prop :=
  ∀ (V : Variant) (p : Params V) (i : Nat) (_ : i < V.blockBytes), p.kl ≤ V.maxDigest →
    (∀ _ : i < V.maxDigest, i < p.kl → (primedBuffer p)[i] = p.keyr[i]) ∧ (p.kl ≤ i → (primedBuffer p)[i] = 0)

/-- R219: RESET after any absorbed bytes gives the hash state of a freshly started instance, and a second RESET changes
nothing more. -/
def Obligations.ResetForgetsAbsorbedBytes : Prop :=
  ∀ (V : Variant) (e : Engine V) (hs : HostSide) (msg : List Byte), e.params.configured = true → e.hash = e.reinit.hash →
    ∃ e₁ e₂ : Engine V,
      feed msg ⟨V, e, hs⟩ = .next ⟨V, e₁, hs⟩ ∧ exec .reset ⟨V, e₁, hs⟩ = .next ⟨V, e₂, hs⟩ ∧
      exec .reset ⟨V, e₂, hs⟩ = .next ⟨V, e₂, hs⟩ ∧
      e₂.hash = e.hash ∧ e₂.params = e.params ∧ e₂.staging = e.staging ∧ e₂.output = e.output

/-- R222, R224: CLEAR_KEY zeroes the KEY staging; on a keyed instance it zeroes the retained key and all `BL` bytes of
the buffer too; `kl`, `cur`, `t`, `h` and everything else stay. -/
def Obligations.ClearKeyZeroesKeyMaterial : Prop :=
  ∀ (V : Variant) (e : Engine V) (hs : HostSide), e.params.configured = true →
    (0 < e.params.kl → exec .clearKey ⟨V, e, hs⟩ = .next ⟨V,
      { e with
        staging := { e.staging with keys := zeros 64 }
        latch := { e.latch with err := 0, busy := false }
        params := { e.params with keyr := zeros _ }
        hash := { e.hash with buf := zeros _ } }, hs⟩) ∧
    (e.params.kl = 0 → exec .clearKey ⟨V, e, hs⟩ = .next ⟨V,
      { e with
        staging := { e.staging with keys := zeros 64 }
        latch := { e.latch with err := 0, busy := false } }, hs⟩)

/-- R222, R250: CLEAR_KEY on a keyed instance forgets the KEY staging, the retained key and the buffer: engines that differ
only in these three become equal. What else may still depend on the key is assumed equal and not spoken of: the chain value
(R224), DOUT, and `v` and `m`, which keep the last compression's values in the model (assumption 8, DESIGN CHOICE). -/
def Obligations.ClearKeyForgetsStagingRetainedKeyAndBuffer : Prop :=
  ∀ (V : Variant) (a b : Engine V) (hs : HostSide), a.params.configured = true → 0 < a.params.kl →
    b.staging = { a.staging with keys := b.staging.keys } → b.params = { a.params with keyr := b.params.keyr } →
    b.hash = { a.hash with buf := b.hash.buf } → b.latch = a.latch → b.scratch = a.scratch → b.output = a.output →
    exec .clearKey ⟨V, a, hs⟩ = exec .clearKey ⟨V, b, hs⟩

/-- R223: after CLEAR_KEY the instance stays keyed, with a key of `kl` zero bytes: a RESET gives the hash state of an
instance whose retained key is zeros, with a buffer of zeros and a full cursor. -/
def Obligations.ClearedKeyActsAsZeroBytes : Prop :=
  ∀ (V : Variant) (e : Engine V) (hs : HostSide), e.params.configured = true → 0 < e.params.kl →
    ∃ e₁ e₂ : Engine V,
      exec .clearKey ⟨V, e, hs⟩ = .next ⟨V, e₁, hs⟩ ∧ exec .reset ⟨V, e₁, hs⟩ = .next ⟨V, e₂, hs⟩ ∧
      e₂.params = { e.params with keyr := zeros _ } ∧
      e₂.hash = { h := paramInit e.params, t := 0, f := 0, buf := zeros _, cur := V.blockBytes } ∧
      ∃ e₃ : Engine V,
        exec .reset ⟨V, { e with params := { e.params with keyr := zeros _ } }, hs⟩ = .next ⟨V, e₃, hs⟩ ∧
        e₂.hash = e₃.hash

/-- R226: CLEAR_SALT zeroes the SALT staging, and the retained salt of a salted instance; `saltp`, `h`, `t`, `buf`, `cur`
and everything else stay. -/
def Obligations.ClearSaltZeroesTheSalt : Prop :=
  ∀ (V : Variant) (e : Engine V) (hs : HostSide), e.params.configured = true →
    exec .clearSalt ⟨V, e, hs⟩ = .next ⟨V,
      { e with
        staging := { e.staging with salts := zeros 16 }
        latch := { e.latch with err := 0, busy := false }
        params := { e.params with saltr := if e.params.saltp then zeros _ else e.params.saltr } }, hs⟩

/-- R227, R152: after CLEAR_SALT the chain value keeps its salt, the next Reinit derives the values of an absent salt, and
STATUS.SALTED (bit 17) stays as it was. -/
def Obligations.ClearedSaltActsAsAbsent : Prop :=
  ∀ (V : Variant) (e : Engine V) (hs : HostSide), e.params.configured = true → e.params.saltp = true →
    ∃ e₁ e₂ : Engine V,
      exec .clearSalt ⟨V, e, hs⟩ = .next ⟨V, e₁, hs⟩ ∧ exec .reset ⟨V, e₁, hs⟩ = .next ⟨V, e₂, hs⟩ ∧
      e₁.hash.h = e.hash.h ∧ e₂.hash.h = paramInit { e.params with saltp := false } ∧
      e₁.status.getLsbD 17 = true ∧ e₂.status.getLsbD 17 = true

/-! ## The host's window -/

/-- R62: the register map. -/
def Obligations.RegisterMapOffsets : Prop :=
  regAt 0x000 = .id ∧ regAt 0x004 = .cfg ∧ regAt 0x008 = .cfglen ∧ regAt 0x00C = .cmd ∧ regAt 0x010 = .status ∧
  regAt 0x014 = .outlen ∧ regAt 0x018 = .param ∧ regAt 0x01C = .reserved ∧
  (∀ k : Fin 4, regAt (0x020 + 4 * k.val) = .counter k) ∧ (∀ k : Fin 4, regAt (0x030 + 4 * k.val) = .reserved) ∧
  (∀ j : Fin 16, regAt (0x040 + 4 * j.val) = .key j) ∧ (∀ j : Fin 4, regAt (0x080 + 4 * j.val) = .salt j) ∧
  (∀ j : Fin 4, regAt (0x090 + 4 * j.val) = .pers j) ∧ (∀ k : Fin 24, regAt (0x0A0 + 4 * k.val) = .reserved) ∧
  (∀ j : Fin 32, regAt (0x100 + 4 * j.val) = .inbuf j) ∧ (∀ j : Fin 16, regAt (0x180 + 4 * j.val) = .dout j) ∧
  (∀ k : Fin 16, regAt (0x1C0 + 4 * k.val) = .reserved)

/-- R69, R63, R70, R32: a write to any register but CMD, at any offset the engine admits, puts the value into the staging
element of that offset, the lowest byte lane first in the byte arrays, and changes nothing else of the engine; at a
read-only or reserved offset it changes nothing at all. So what that register reads as changes exactly when it is an RW
register, then to the value written, and no other register of the window reads differently. On the host's turn, while idle,
the step makes exactly this write. -/
def Obligations.WriteThenReadRegisters : Prop :=
  ∀ (V : Variant) (e : Engine V) (off : Nat) (x : BitVec 32),
    inWindow off = true → admitted off 32 = true → off ≠ offCmd →
    (∀ off', inWindow off' = true → admitted off' 32 = true →
      (e.writeReg (regAt off) x).readReg (regAt off') =
        if off' = off ∧ (off = 0x004 ∨ off = 0x008 ∨ (0x090 ≤ off ∧ off < 0x0A0) ∨ (0x100 ≤ off ∧ off < 0x180)) then x
        else e.readReg (regAt off')) ∧
    ∃ st : Staging,
      e.writeReg (regAt off) x = { e with staging := st } ∧
      (∀ (hs : HostSide) (rest : List HostOp), State.turn ⟨V, e, hs⟩ = .host → hs.program = .write off 32 x :: rest →
        e.latch.busy = false →
        step ⟨V, e, hs⟩ = .next ⟨V, { e with staging := st }, { hs with program := rest, schedule := hs.schedule.tail }⟩) ∧
      st.cfg = (if off = 0x004 then x else e.staging.cfg) ∧
      st.cfglen = (if off = 0x008 then x else e.staging.cfglen) ∧
      (∀ (i : Nat) (_ : i < 64), st.keys[i] =
        if off = 0x040 + 4 * (i / 4) then BitVec.ofNat 8 (x.toNat / 256 ^ (i % 4)) else e.staging.keys[i]) ∧
      (∀ (i : Nat) (_ : i < 16), st.salts[i] =
        if off = 0x080 + 4 * (i / 4) then BitVec.ofNat 8 (x.toNat / 256 ^ (i % 4)) else e.staging.salts[i]) ∧
      (∀ (i : Nat) (_ : i < 16), st.perss[i] =
        if off = 0x090 + 4 * (i / 4) then BitVec.ofNat 8 (x.toNat / 256 ^ (i % 4)) else e.staging.perss[i]) ∧
      (∀ (i : Nat) (_ : i < 128), st.inbuf[i] =
        if off = 0x100 + 4 * (i / 4) then BitVec.ofNat 8 (x.toNat / 256 ^ (i % 4)) else e.staging.inbuf[i])

/-- R66, R102: a 32-bit write to a register of a byte array stores its four bytes, the lowest lane first, and leaves
every other byte of every array alone; a read of DOUT, PERS or INBUF returns the array's bytes in the same lanes. -/
def Obligations.PackedWritesAreLittleEndian : Prop :=
  ∀ (V : Variant) (e : Engine V) (x : BitVec 32),
    (∀ j : Fin 16, ∃ keys : Vector Byte 64,
      e.writeReg (.key j) x = { e with staging := { e.staging with keys := keys } } ∧
      ∀ (i : Nat) (_ : i < 64), keys[i] = if i / 4 = j.val then BitVec.ofNat 8 (x.toNat / 256 ^ (i % 4)) else e.staging.keys[i]) ∧
    (∀ j : Fin 4, ∃ salts : Vector Byte 16,
      e.writeReg (.salt j) x = { e with staging := { e.staging with salts := salts } } ∧
      ∀ (i : Nat) (_ : i < 16), salts[i] = if i / 4 = j.val then BitVec.ofNat 8 (x.toNat / 256 ^ (i % 4)) else e.staging.salts[i]) ∧
    (∀ j : Fin 4, ∃ perss : Vector Byte 16,
      e.writeReg (.pers j) x = { e with staging := { e.staging with perss := perss } } ∧
      ∀ (i : Nat) (_ : i < 16), perss[i] = if i / 4 = j.val then BitVec.ofNat 8 (x.toNat / 256 ^ (i % 4)) else e.staging.perss[i]) ∧
    (∀ j : Fin 32, ∃ inbuf : Vector Byte 128,
      e.writeReg (.inbuf j) x = { e with staging := { e.staging with inbuf := inbuf } } ∧
      ∀ (i : Nat) (_ : i < 128), inbuf[i] = if i / 4 = j.val then BitVec.ofNat 8 (x.toNat / 256 ^ (i % 4)) else e.staging.inbuf[i]) ∧
    (∀ (j : Fin 16) (k : Nat) (_ : k < 4) (_ : 4 * j.val + k < 64),
      (e.readReg (.dout j)).toNat / 256 ^ k % 256 = e.output.dout[4 * j.val + k].toNat) ∧
    (∀ (j : Fin 4) (k : Nat) (_ : k < 4) (_ : 4 * j.val + k < 16),
      (e.readReg (.pers j)).toNat / 256 ^ k % 256 = e.staging.perss[4 * j.val + k].toNat) ∧
    (∀ (j : Fin 32) (k : Nat) (_ : k < 4) (_ : 4 * j.val + k < 128),
      (e.readReg (.inbuf j)).toNat / 256 ^ k % 256 = e.staging.inbuf[4 * j.val + k].toNat)

/-- R48, R39, R250: no register reads the KEY or SALT staging, the chain value, the buffer, the retained key, salt or
personalization, or the working state. -/
def Obligations.RegistersRevealNoSecret : Prop :=
  ∀ (V : Variant) (a b : Engine V) (r : Reg), a.SameToReader b → a.readReg r = b.readReg r

/-- R31, R35 to R40, R63: what the registers that are no plain store read as, as numbers: ID, STATUS field by field,
OUTLEN, PARAM and T0 to T3; CMD, KEY, SALT and every reserved offset read 0. -/
def Obligations.ReadOnlyRegisterValues : Prop :=
  ∀ (V : Variant) (e : Engine V), e.hash.cur ≤ V.blockBytes → e.output.outlen < 256 → e.params.dl < 256 → e.params.kl < 256 →
    (e.readReg .status).toNat =
      (if e.latch.busy then 1 else 0) + 2 * (if e.latch.sticky then 1 else 0)
        + 4 * (if e.params.configured then (if e.hash.cur = 0 ∧ e.hash.t = 0 then 1 else 2) else 0)
        + 16 * e.latch.err.toNat + 256 * e.hash.cur + 65536 * (if 0 < e.params.kl then 1 else 0)
        + 131072 * (if e.params.saltp then 1 else 0) + 262144 * (if e.params.persp then 1 else 0) ∧
    (e.readReg .id).toNat = V.wordBits + 2 ^ 8 * V.blockBytes + 2 ^ 16 * V.maxDigest + 2 ^ 24 * V.rounds ∧
    (e.readReg .outlen).toNat = e.output.outlen ∧
    (e.readReg .param).toNat = e.params.dl + 256 * e.params.kl ∧
    (∀ k : Fin 4, (e.readReg (.counter k)).toNat = e.hash.t.toNat / 2 ^ (32 * k.val) % 2 ^ 32) ∧
    e.readReg .cmd = 0 ∧ (∀ j, e.readReg (.key j) = 0) ∧ (∀ j, e.readReg (.salt j) = 0) ∧ e.readReg .reserved = 0

/-- R230, R243: the transitions of STATUS.STATE. A command that completes with an error leaves it; without error,
CONFIGURE, FINALIZE and RESET lead to EMPTY when the instance is unkeyed and to BUFFERING when it is keyed, an absorbed
byte leads to BUFFERING, and ABSORB 0 and the clears leave it. From UNCONFIGURED all but CONFIGURE fail with
NOT_CONFIGURED. -/
def Obligations.StateTransitions : Prop :=
  ∀ (V : Variant) (e e' : Engine V) (hs : HostSide) (i : Instr), exec i ⟨V, e, hs⟩ = .next ⟨V, e', hs⟩ →
    (e'.latch.err ≠ 0 → e'.phase = e.phase) ∧ (e.phase = .unconfigured → i ≠ .configure → e'.latch.err = 3) ∧
    (e'.latch.err = 0 →
      match i with
      | .configure => e'.phase = if e'.params.kl = 0 then .empty else .buffering
      | .finalize => e'.phase = if e.params.kl = 0 then .empty else .buffering
      | .reset => e'.phase = if e.params.kl = 0 then .empty else .buffering
      | .absorbByte _ => e'.phase = .buffering
      | .absorb n => e'.phase = if n = 0 then e.phase else .buffering
      | .clearKey => e'.phase = e.phase
      | .clearSalt => e'.phase = e.phase)

/-- R70, R69: an admitted read of an idle engine returns the register's value and changes nothing but the host's own
record of it, the model's field: the value is appended to what the reads returned, and a read of STATUS ends the wait after
the last CMD write, since it returned BUSY = 0 (R284, assumption 21). -/
def Obligations.IdleReadsHaveNoSideEffect : Prop :=
  ∀ (V : Variant) (e : Engine V) (hs : HostSide) (off : Nat) (rest : List HostOp),
    State.turn ⟨V, e, hs⟩ = .host → hs.program = .read off 32 :: rest → inWindow off = true → off % 4 = 0 →
    e.latch.busy = false →
    step ⟨V, e, hs⟩ = .next ⟨V, e, { hs with
      program := rest, schedule := hs.schedule.tail, observed := hs.observed ++ [e.readReg (regAt off)]
      awaiting := if off = 0x010 then false else hs.awaiting }⟩

/-- R71: while busy, an admitted read changes nothing of the engine, whatever value it returns, and that of STATUS has
bit 0 set, so that a host that awaits one with BUSY = 0 goes on awaiting it (R284, assumption 21); a write is a fault. The value read is otherwise
free (assumption 5). -/
def Obligations.BusyAccesses : Prop :=
  ∀ (V : Variant) (e : Engine V) (hs : HostSide) (off : Nat) (rest : List HostOp),
    State.turn ⟨V, e, hs⟩ = .host → inWindow off = true → off % 4 = 0 → e.latch.busy = true →
    (hs.program = .read off 32 :: rest → ∃ x : BitVec 32,
      step ⟨V, e, hs⟩ = .next ⟨V, e, { hs with
        program := rest, schedule := hs.schedule.tail, observed := hs.observed ++ [x], draws := hs.draws + 1 }⟩ ∧
      (off = 0x010 → x.getLsbD 0 = true)) ∧
    (∀ x, hs.program = .write off 32 x :: rest → step ⟨V, e, hs⟩ = .fault (.hostWriteWhileBusy off))

/-- R72: a host write of `c` to CMD while idle latches `c` and sets `busy`; nothing else changes. The host's own record,
the model's field, says that a STATUS read with BUSY = 0 is awaited from then on (R284, assumption 21). -/
def Obligations.CmdWriteLatchesTheWord : Prop :=
  ∀ (V : Variant) (e : Engine V) (hs : HostSide) (c : BitVec 32) (rest : List HostOp),
    State.turn ⟨V, e, hs⟩ = .host → hs.program = .write 0x00C 32 c :: rest → e.latch.busy = false →
    step ⟨V, e, hs⟩ = .next ⟨V, { e with latch := { e.latch with pend := c, busy := true } },
      { hs with program := rest, schedule := hs.schedule.tail, awaiting := true }⟩

/-- R64: an access of the window whose width is not 32 bits, or whose offset is no multiple of 4, is a BusFault. That it
is this fault for such a write while busy too is the model's choice (assumption 7). -/
def Obligations.OtherWidthsAndAlignmentsFault : Prop :=
  ∀ (V : Variant) (e : Engine V) (hs : HostSide) (off width : Nat) (rest : List HostOp),
    State.turn ⟨V, e, hs⟩ = .host → off < 0x200 → width ≠ 32 ∨ off % 4 ≠ 0 →
    (hs.program = .read off width :: rest → step ⟨V, e, hs⟩ = .fault (.busFault off width)) ∧
    (∀ x, hs.program = .write off width x :: rest → step ⟨V, e, hs⟩ = .fault (.busFault off width))

/-- R246: a step stops only for one of the two host-protocol violations, on the host's turn, and never with a refusal.
That an access outside the window (`off ≥ 0x200`), which R61 says does not reach the engine, never stops the machine is
the model's choice (assumption 6, DESIGN CHOICE, unsafe of a platform that stops the host there). -/
def Obligations.OnlyHostViolationsStopTheMachine : Prop :=
  ∀ s : State, (∀ r, step s ≠ .refused r) ∧
    ∀ F, step s = .fault F → s.turn = .host ∧ ∃ (off width : Nat) (rest : List HostOp), off < 0x200 ∧
      ((s.host.program = .read off width :: rest ∧ (width ≠ 32 ∨ off % 4 ≠ 0) ∧ F = .busFault off width) ∨
       (∃ x, s.host.program = .write off width x :: rest ∧
          (((width ≠ 32 ∨ off % 4 ≠ 0) ∧ F = .busFault off width) ∨
           (s.engine.latch.busy = true ∧ F = .hostWriteWhileBusy off))))

/-- R61: an access outside the window does not reach the engine, which stays as it is. That such an access does not stop
the machine either, whatever its width and whether the engine is busy, and that what a read there returns is free, is the
model's choice (assumption 6, DESIGN CHOICE, unsafe of a platform that stops the host there). -/
def Obligations.AccessesOutsideTheWindowDoNotReachTheEngine : Prop :=
  ∀ (V : Variant) (e : Engine V) (hs : HostSide) (off width : Nat) (rest : List HostOp),
    State.turn ⟨V, e, hs⟩ = .host → 0x200 ≤ off →
    (hs.program = .read off width :: rest → ∃ x : BitVec 32,
      step ⟨V, e, hs⟩ = .next ⟨V, e, { hs with
        program := rest, schedule := hs.schedule.tail, observed := hs.observed ++ [x], draws := hs.draws + 1 }⟩) ∧
    (∀ x, hs.program = .write off width x :: rest →
      step ⟨V, e, hs⟩ = .next ⟨V, e, { hs with program := rest, schedule := hs.schedule.tail }⟩)

/-- R103, R275, R278, R284: the WAIT loop ends. From a busy engine, whatever the number `n` of polls the schedule grants
the host first, the loop goes on for exactly those, the engine completes, and one more poll ends it; where WAIT was the
host's last operation, the run ends there and not before, and its observation is what its reads returned (assumption 21). The model's choices
in it: that WAIT is one operation, each of its polls one step and part of the observation (assumption 12, DESIGN CHOICE),
and that a busy engine completes once the schedule is empty (assumption 2, DESIGN CHOICE). -/
def Obligations.WaitLoopEndsAfterCompletion : Prop :=
  ∀ (V : Variant) (e : Engine V) (hs : HostSide) (n : Nat) (rest : List HostOp),
    e.latch.busy = true → hs.program = .wait :: rest → hs.schedule = List.replicate n .host →
    ∃ (e' : Engine V) (polls : List (BitVec 32)),
      Host.Core.run Sys2Proof.core (n + 2) (⟨V, e, hs⟩ : State) =
        .next (⟨V, e', ⟨rest, [], hs.observed ++ polls ++ [e'.status], hs.draws + n, false⟩⟩ : State) ∧
      engineStep ⟨V, e, ⟨.wait :: rest, [], hs.observed ++ polls, hs.draws + n, hs.awaiting⟩⟩ =
        .next ⟨V, e', ⟨.wait :: rest, [], hs.observed ++ polls, hs.draws + n, hs.awaiting⟩⟩ ∧
      e'.latch.busy = false ∧ polls.length = n ∧ (∀ x ∈ polls, x.getLsbD 0 = true) ∧
      (rest = [] → ∀ k : Nat, k ≤ n + 2 →
        observationOf (Host.Core.run Sys2Proof.core k (⟨V, e, hs⟩ : State)) =
          if k = n + 2 then some (hs.observed ++ polls ++ [e'.status]) else none)

/-- R102, R66: the loader LOADIN, run by the host on an idle engine, leaves the string at the start of INBUF, zero-filled
to a whole register, and changes nothing else. The schedule is empty, so that the writes follow one another, one step each,
with no hardware reset and no idle turn between them: that an idle engine's host moves under the empty schedule is the
model's choice (assumption 2, DESIGN CHOICE, unsafe for a claim that, as this one, fixes the empty schedule). -/
def Obligations.LoadInFillsInbuf : Prop :=
  ∀ (V : Variant) (e : Engine V) (hs : HostSide) (bs : List Byte) (ops : List HostOp),
    e.latch.busy = false → hs.schedule = [] → loadIn bs = some ops → hs.program = ops →
    ∃ inbuf : Vector Byte 128,
      Host.Core.run Sys2Proof.core ops.length (⟨V, e, hs⟩ : State) =
        .next (⟨V, { e with staging := { e.staging with inbuf := inbuf } }, { hs with program := [] }⟩ : State) ∧
      ∀ (i : Nat) (_ : i < 128), inbuf[i] =
        if i < bs.length then bs.getD i 0 else if i < 4 * ((bs.length + 3) / 4) then 0 else e.staging.inbuf[i]

/-! ## The datapath -/

/-- R123: bit `i` of `rotr_W(a, n)` is bit `(i + n) mod W` of `a`. -/
def Obligations.RotationBits : Prop :=
  ∀ (V : Variant) (a : Word V) (n i : Nat), 0 < n → n < V.wordBits → i < V.wordBits →
    (rotr a n).getLsbD i = a.getLsbD ((i + n) % V.wordBits)

/-- R126, R125: decoding the little-endian bytes of a word gives the word back, and its bytes are its base-256 digits. -/
def Obligations.LittleEndianRoundTrip : Prop :=
  ∀ (V : Variant) (x : Word V),
    leWord V (Vector.ofFn fun k : Fin V.wordBytes => leByte x k.val) 0 = x ∧
    ∀ k, (leByte x k).toNat = x.toNat / 256 ^ k % 256

/-- R128, R127: the counter addition in halves: the low words add modulo `2^W`, and the high word takes a carry exactly
when that wraps. -/
def Obligations.CounterAddCarriesBetweenHalves : Prop :=
  ∀ (V : Variant) (t : Counter V) (n : Nat), n ≤ V.blockBytes →
    counterLo (ctrAdd t n) = Word.add (counterLo t) (BitVec.ofNat _ n) ∧
    counterHi (ctrAdd t n) = Word.add (counterHi t) (if (counterLo (ctrAdd t n)).toNat < n then 1 else 0) ∧
    (ctrAdd t n).toNat = (t.toNat + n) % 2 ^ V.counterBits

/-- R174: G is a bijection of its four working words for fixed message words. -/
def Obligations.MixIsBijective : Prop :=
  ∀ (V : Variant) (x y : Word V),
    Function.Bijective fun q : Word V × Word V × Word V × Word V => mix q.1 q.2.1 q.2.2.1 q.2.2.2 x y

/-- R182: the four calls of a half-round may be made in any order, the columns' and the diagonals' alike. -/
def Obligations.HalfRoundCallsCommute : Prop :=
  ∀ (V : Variant) (m : Vector (Word V) 16) (s : Vector (Fin 16) 16) (v : Vector (Word V) 16) (i j k l : Fin 4),
    [i, j, k, l].Nodup →
    mixCall m s (mixCall m s (mixCall m s (mixCall m s v
      columns[i] (i.castLE (by decide))) columns[j] (j.castLE (by decide))) columns[k] (k.castLE (by decide)))
      columns[l] (l.castLE (by decide)) = columnHalf m s v ∧
    mixCall m s (mixCall m s (mixCall m s (mixCall m s v
      diagonals[i] (i.natAdd 4)) diagonals[j] (j.natAdd 4)) diagonals[k] (k.natAdd 4))
      diagonals[l] (l.natAdd 4) = diagonalHalf m s v

/-- R183: the worked compression of "abc" for BLAKE2s, from the chain value of R153. -/
def Obligations.WorkedCompressionOfAbc : Prop :=
  compress (V := .blake2s)
    #v[0x6B08E647, 0xBB67AE85, 0x3C6EF372, 0xA54FF53A, 0x510E527F, 0x9B05688C, 0x1F83D9AB, 0x5BE0CD19]
    (blockAt .blake2s [0x61, 0x62, 0x63] 0) 3 true =
    #v[0x8C5E8C50, 0xE2147C32, 0xA32BA7E1, 0x2F45EB4E, 0x208B4537, 0x293AD69E, 0x4C9B994D, 0x82596786]
end

