-- ==== Sys2Proof/Laws/State.lean ====
section
/-!
SUPPORT. One lemma for each field of the state and each named update of it, so that no proof unfolds a record update.
-/

namespace Sys2Proof.Machine

/-! The whole state. -/

@[simp] theorem State.withEngine_variant (s : State) (e : Engine s.variant) : (s.withEngine e).variant = s.variant := rfl
@[simp] theorem State.withEngine_engine (s : State) (e : Engine s.variant) : (s.withEngine e).engine = e := rfl
@[simp] theorem State.withEngine_host (s : State) (e : Engine s.variant) : (s.withEngine e).host = s.host := rfl
@[simp] theorem State.withHost_variant (s : State) (h : HostSide) : (s.withHost h).variant = s.variant := rfl
@[simp] theorem State.withHost_engine (s : State) (h : HostSide) : (s.withHost h).engine = s.engine := rfl
@[simp] theorem State.withHost_host (s : State) (h : HostSide) : (s.withHost h).host = h := rfl
@[simp] theorem State.withEngine_mk (V : Variant) (e e' : Engine V) (h : HostSide) :
    State.withEngine ⟨V, e, h⟩ e' = ⟨V, e', h⟩ := rfl
@[simp] theorem State.withHost_mk (V : Variant) (e : Engine V) (h h' : HostSide) :
    State.withHost ⟨V, e, h⟩ h' = ⟨V, e, h'⟩ := rfl
@[simp] theorem State.takeTurn_variant (s : State) : s.takeTurn.variant = s.variant := rfl
@[simp] theorem State.takeTurn_engine (s : State) : s.takeTurn.engine = s.engine := rfl
@[simp] theorem State.takeTurn_program (s : State) : s.takeTurn.host.program = s.host.program := rfl
@[simp] theorem State.takeTurn_schedule (s : State) : s.takeTurn.host.schedule = s.host.schedule.tail := rfl
@[simp] theorem State.takeTurn_observed (s : State) : s.takeTurn.host.observed = s.host.observed := rfl
@[simp] theorem State.takeTurn_draws (s : State) : s.takeTurn.host.draws = s.host.draws := rfl
@[simp] theorem State.takeTurn_awaiting (s : State) : s.takeTurn.host.awaiting = s.host.awaiting := rfl
@[simp] theorem State.withProgram_variant (s : State) (ops : List HostOp) : (s.withProgram ops).variant = s.variant := rfl
@[simp] theorem State.withProgram_engine (s : State) (ops : List HostOp) : (s.withProgram ops).engine = s.engine := rfl
@[simp] theorem State.withProgram_program (s : State) (ops : List HostOp) : (s.withProgram ops).host.program = ops := rfl
@[simp] theorem State.withProgram_schedule (s : State) (ops : List HostOp) :
    (s.withProgram ops).host.schedule = s.host.schedule := rfl
@[simp] theorem State.withProgram_observed (s : State) (ops : List HostOp) :
    (s.withProgram ops).host.observed = s.host.observed := rfl
@[simp] theorem State.withProgram_draws (s : State) (ops : List HostOp) :
    (s.withProgram ops).host.draws = s.host.draws := rfl
@[simp] theorem State.withProgram_awaiting (s : State) (ops : List HostOp) :
    (s.withProgram ops).host.awaiting = s.host.awaiting := rfl
@[simp] theorem State.recordRead_variant (s : State) (off : Nat) (x : BitVec 32) : (s.recordRead off x).variant = s.variant := rfl
@[simp] theorem State.recordRead_engine (s : State) (off : Nat) (x : BitVec 32) : (s.recordRead off x).engine = s.engine := rfl
@[simp] theorem State.recordRead_program (s : State) (off : Nat) (x : BitVec 32) :
    (s.recordRead off x).host.program = s.host.program := rfl
@[simp] theorem State.recordRead_schedule (s : State) (off : Nat) (x : BitVec 32) :
    (s.recordRead off x).host.schedule = s.host.schedule := rfl
@[simp] theorem State.recordRead_observed (s : State) (off : Nat) (x : BitVec 32) :
    (s.recordRead off x).host.observed = s.host.observed ++ [x] := rfl
@[simp] theorem State.recordRead_draws (s : State) (off : Nat) (x : BitVec 32) :
    (s.recordRead off x).host.draws = if s.readDraws off then s.host.draws + 1 else s.host.draws := rfl
@[simp] theorem State.recordRead_awaiting (s : State) (off : Nat) (x : BitVec 32) :
    (s.recordRead off x).host.awaiting = awaitingAfterRead s.host.awaiting off x := rfl
@[simp] theorem State.recordWrite_variant (s : State) (off : Nat) : (s.recordWrite off).variant = s.variant := rfl
@[simp] theorem State.recordWrite_engine (s : State) (off : Nat) : (s.recordWrite off).engine = s.engine := rfl
@[simp] theorem State.recordWrite_program (s : State) (off : Nat) : (s.recordWrite off).host.program = s.host.program := rfl
@[simp] theorem State.recordWrite_schedule (s : State) (off : Nat) : (s.recordWrite off).host.schedule = s.host.schedule := rfl
@[simp] theorem State.recordWrite_observed (s : State) (off : Nat) : (s.recordWrite off).host.observed = s.host.observed := rfl
@[simp] theorem State.recordWrite_draws (s : State) (off : Nat) : (s.recordWrite off).host.draws = s.host.draws := rfl
@[simp] theorem State.recordWrite_awaiting (s : State) (off : Nat) :
    (s.recordWrite off).host.awaiting = awaitingAfterWrite s.host.awaiting off := rfl
@[simp] theorem State.withFetchWord_variant (s : State) (nbits w : Nat) : (s.withFetchWord nbits w).variant = s.variant := rfl
@[simp] theorem State.withFetchWord_engine (s : State) (nbits w : Nat) :
    (s.withFetchWord nbits w).engine = s.engine.latchCommand (tableWord nbits w) := rfl
@[simp] theorem State.withFetchWord_turn (s : State) (nbits w : Nat) : (s.withFetchWord nbits w).turn = .engine := rfl

/-! The CMD latch (R72). -/

@[simp] theorem Engine.latchCommand_staging {V : Variant} (e : Engine V) (c : BitVec 32) : (e.latchCommand c).staging = e.staging := rfl
@[simp] theorem Engine.latchCommand_busy {V : Variant} (e : Engine V) (c : BitVec 32) :
    (e.latchCommand c).latch.busy = true := rfl
@[simp] theorem Engine.latchCommand_pend {V : Variant} (e : Engine V) (c : BitVec 32) :
    (e.latchCommand c).latch.pend = c := rfl
@[simp] theorem Engine.latchCommand_err {V : Variant} (e : Engine V) (c : BitVec 32) : (e.latchCommand c).latch.err = e.latch.err := rfl
@[simp] theorem Engine.latchCommand_sticky {V : Variant} (e : Engine V) (c : BitVec 32) : (e.latchCommand c).latch.sticky = e.latch.sticky := rfl
@[simp] theorem Engine.latchCommand_params {V : Variant} (e : Engine V) (c : BitVec 32) : (e.latchCommand c).params = e.params := rfl
@[simp] theorem Engine.latchCommand_hash {V : Variant} (e : Engine V) (c : BitVec 32) : (e.latchCommand c).hash = e.hash := rfl
@[simp] theorem Engine.latchCommand_scratch {V : Variant} (e : Engine V) (c : BitVec 32) : (e.latchCommand c).scratch = e.scratch := rfl
@[simp] theorem Engine.latchCommand_output {V : Variant} (e : Engine V) (c : BitVec 32) : (e.latchCommand c).output = e.output := rfl

/-! Success (R44). -/

@[simp] theorem Engine.succeed_staging {V : Variant} (e : Engine V) : (e.succeed).staging = e.staging := rfl
@[simp] theorem Engine.succeed_busy {V : Variant} (e : Engine V) :
    (e.succeed).latch.busy = false := rfl
@[simp] theorem Engine.succeed_pend {V : Variant} (e : Engine V) : (e.succeed).latch.pend = e.latch.pend := rfl
@[simp] theorem Engine.succeed_err {V : Variant} (e : Engine V) :
    (e.succeed).latch.err = 0 := rfl
@[simp] theorem Engine.succeed_sticky {V : Variant} (e : Engine V) : (e.succeed).latch.sticky = e.latch.sticky := rfl
@[simp] theorem Engine.succeed_params {V : Variant} (e : Engine V) : (e.succeed).params = e.params := rfl
@[simp] theorem Engine.succeed_hash {V : Variant} (e : Engine V) : (e.succeed).hash = e.hash := rfl
@[simp] theorem Engine.succeed_scratch {V : Variant} (e : Engine V) : (e.succeed).scratch = e.scratch := rfl
@[simp] theorem Engine.succeed_output {V : Variant} (e : Engine V) : (e.succeed).output = e.output := rfl

/-! An error (R243). -/

@[simp] theorem Engine.raise_staging {V : Variant} (e : Engine V) (E : ErrCode) : (e.raise E).staging = e.staging := rfl
@[simp] theorem Engine.raise_busy {V : Variant} (e : Engine V) (E : ErrCode) :
    (e.raise E).latch.busy = false := rfl
@[simp] theorem Engine.raise_pend {V : Variant} (e : Engine V) (E : ErrCode) : (e.raise E).latch.pend = e.latch.pend := rfl
@[simp] theorem Engine.raise_err {V : Variant} (e : Engine V) (E : ErrCode) :
    (e.raise E).latch.err = E.code := rfl
@[simp] theorem Engine.raise_sticky {V : Variant} (e : Engine V) (E : ErrCode) :
    (e.raise E).latch.sticky = true := rfl
@[simp] theorem Engine.raise_params {V : Variant} (e : Engine V) (E : ErrCode) : (e.raise E).params = e.params := rfl
@[simp] theorem Engine.raise_hash {V : Variant} (e : Engine V) (E : ErrCode) : (e.raise E).hash = e.hash := rfl
@[simp] theorem Engine.raise_scratch {V : Variant} (e : Engine V) (E : ErrCode) : (e.raise E).scratch = e.scratch := rfl
@[simp] theorem Engine.raise_output {V : Variant} (e : Engine V) (E : ErrCode) : (e.raise E).output = e.output := rfl

/-! Reinit (R200). -/

@[simp] theorem Engine.reinit_staging {V : Variant} (e : Engine V) : (e.reinit).staging = e.staging := rfl
@[simp] theorem Engine.reinit_latch {V : Variant} (e : Engine V) : (e.reinit).latch = e.latch := rfl
@[simp] theorem Engine.reinit_params {V : Variant} (e : Engine V) : (e.reinit).params = e.params := rfl
@[simp] theorem Engine.reinit_h {V : Variant} (e : Engine V) :
    (e.reinit).hash.h = paramInit e.params := rfl
@[simp] theorem Engine.reinit_t {V : Variant} (e : Engine V) :
    (e.reinit).hash.t = 0 := rfl
@[simp] theorem Engine.reinit_f {V : Variant} (e : Engine V) :
    (e.reinit).hash.f = 0 := rfl
@[simp] theorem Engine.reinit_buf {V : Variant} (e : Engine V) :
    (e.reinit).hash.buf = primedBuffer e.params := rfl
@[simp] theorem Engine.reinit_cur {V : Variant} (e : Engine V) :
    (e.reinit).hash.cur = primedCursor e.params := rfl
@[simp] theorem Engine.reinit_scratch {V : Variant} (e : Engine V) : (e.reinit).scratch = e.scratch := rfl
@[simp] theorem Engine.reinit_output {V : Variant} (e : Engine V) : (e.reinit).output = e.output := rfl

/-! The compression of the buffer (R180). -/

@[simp] theorem Engine.compressBuffer_staging {V : Variant} (e : Engine V) (isFinal : Bool) : (e.compressBuffer isFinal).staging = e.staging := rfl
@[simp] theorem Engine.compressBuffer_latch {V : Variant} (e : Engine V) (isFinal : Bool) : (e.compressBuffer isFinal).latch = e.latch := rfl
@[simp] theorem Engine.compressBuffer_params {V : Variant} (e : Engine V) (isFinal : Bool) : (e.compressBuffer isFinal).params = e.params := rfl
@[simp] theorem Engine.compressBuffer_h {V : Variant} (e : Engine V) (isFinal : Bool) :
    (e.compressBuffer isFinal).hash.h = compress e.hash.h e.hash.buf e.hash.t isFinal := rfl
@[simp] theorem Engine.compressBuffer_t {V : Variant} (e : Engine V) (isFinal : Bool) : (e.compressBuffer isFinal).hash.t = e.hash.t := rfl
@[simp] theorem Engine.compressBuffer_f {V : Variant} (e : Engine V) (isFinal : Bool) : (e.compressBuffer isFinal).hash.f = e.hash.f := rfl
@[simp] theorem Engine.compressBuffer_buf {V : Variant} (e : Engine V) (isFinal : Bool) : (e.compressBuffer isFinal).hash.buf = e.hash.buf := rfl
@[simp] theorem Engine.compressBuffer_cur {V : Variant} (e : Engine V) (isFinal : Bool) : (e.compressBuffer isFinal).hash.cur = e.hash.cur := rfl
@[simp] theorem Engine.compressBuffer_v {V : Variant} (e : Engine V) (isFinal : Bool) :
    (e.compressBuffer isFinal).scratch.v = workingFinal e.hash.h e.hash.buf e.hash.t isFinal := rfl
@[simp] theorem Engine.compressBuffer_m {V : Variant} (e : Engine V) (isFinal : Bool) :
    (e.compressBuffer isFinal).scratch.m = messageWords e.hash.buf := rfl
@[simp] theorem Engine.compressBuffer_output {V : Variant} (e : Engine V) (isFinal : Bool) : (e.compressBuffer isFinal).output = e.output := rfl

/-! The counter (R202). -/

@[simp] theorem Engine.count_staging {V : Variant} (e : Engine V) (n : Nat) : (e.count n).staging = e.staging := rfl
@[simp] theorem Engine.count_latch {V : Variant} (e : Engine V) (n : Nat) : (e.count n).latch = e.latch := rfl
@[simp] theorem Engine.count_params {V : Variant} (e : Engine V) (n : Nat) : (e.count n).params = e.params := rfl
@[simp] theorem Engine.count_h {V : Variant} (e : Engine V) (n : Nat) : (e.count n).hash.h = e.hash.h := rfl
@[simp] theorem Engine.count_t {V : Variant} (e : Engine V) (n : Nat) :
    (e.count n).hash.t = ctrAdd e.hash.t n := rfl
@[simp] theorem Engine.count_f {V : Variant} (e : Engine V) (n : Nat) : (e.count n).hash.f = e.hash.f := rfl
@[simp] theorem Engine.count_buf {V : Variant} (e : Engine V) (n : Nat) : (e.count n).hash.buf = e.hash.buf := rfl
@[simp] theorem Engine.count_cur {V : Variant} (e : Engine V) (n : Nat) : (e.count n).hash.cur = e.hash.cur := rfl
@[simp] theorem Engine.count_scratch {V : Variant} (e : Engine V) (n : Nat) : (e.count n).scratch = e.scratch := rfl
@[simp] theorem Engine.count_output {V : Variant} (e : Engine V) (n : Nat) : (e.count n).output = e.output := rfl

/-! The buffer emptied (R202). -/

@[simp] theorem Engine.emptyBuffer_staging {V : Variant} (e : Engine V) : (e.emptyBuffer).staging = e.staging := rfl
@[simp] theorem Engine.emptyBuffer_latch {V : Variant} (e : Engine V) : (e.emptyBuffer).latch = e.latch := rfl
@[simp] theorem Engine.emptyBuffer_params {V : Variant} (e : Engine V) : (e.emptyBuffer).params = e.params := rfl
@[simp] theorem Engine.emptyBuffer_h {V : Variant} (e : Engine V) : (e.emptyBuffer).hash.h = e.hash.h := rfl
@[simp] theorem Engine.emptyBuffer_t {V : Variant} (e : Engine V) : (e.emptyBuffer).hash.t = e.hash.t := rfl
@[simp] theorem Engine.emptyBuffer_f {V : Variant} (e : Engine V) : (e.emptyBuffer).hash.f = e.hash.f := rfl
@[simp] theorem Engine.emptyBuffer_buf {V : Variant} (e : Engine V) :
    (e.emptyBuffer).hash.buf = zeros _ := rfl
@[simp] theorem Engine.emptyBuffer_cur {V : Variant} (e : Engine V) :
    (e.emptyBuffer).hash.cur = 0 := rfl
@[simp] theorem Engine.emptyBuffer_scratch {V : Variant} (e : Engine V) : (e.emptyBuffer).scratch = e.scratch := rfl
@[simp] theorem Engine.emptyBuffer_output {V : Variant} (e : Engine V) : (e.emptyBuffer).output = e.output := rfl

/-! The buffer-full step (R202). -/

@[simp] theorem Engine.flush_staging {V : Variant} (e : Engine V) : (e.flush).staging = e.staging := rfl
@[simp] theorem Engine.flush_latch {V : Variant} (e : Engine V) : (e.flush).latch = e.latch := rfl
@[simp] theorem Engine.flush_params {V : Variant} (e : Engine V) : (e.flush).params = e.params := rfl
@[simp] theorem Engine.flush_h {V : Variant} (e : Engine V) :
    (e.flush).hash.h = compress e.hash.h e.hash.buf (ctrAdd e.hash.t V.blockBytes) false := rfl
@[simp] theorem Engine.flush_t {V : Variant} (e : Engine V) :
    (e.flush).hash.t = ctrAdd e.hash.t V.blockBytes := rfl
@[simp] theorem Engine.flush_f {V : Variant} (e : Engine V) : (e.flush).hash.f = e.hash.f := rfl
@[simp] theorem Engine.flush_buf {V : Variant} (e : Engine V) :
    (e.flush).hash.buf = zeros _ := rfl
@[simp] theorem Engine.flush_cur {V : Variant} (e : Engine V) :
    (e.flush).hash.cur = 0 := rfl
@[simp] theorem Engine.flush_v {V : Variant} (e : Engine V) :
    (e.flush).scratch.v = workingFinal e.hash.h e.hash.buf (ctrAdd e.hash.t V.blockBytes) false := rfl
@[simp] theorem Engine.flush_m {V : Variant} (e : Engine V) :
    (e.flush).scratch.m = messageWords e.hash.buf := rfl
@[simp] theorem Engine.flush_output {V : Variant} (e : Engine V) : (e.flush).output = e.output := rfl

/-! The store step (R203). -/

@[simp] theorem Engine.storeByte_staging {V : Variant} (e : Engine V) (b : Byte) : (e.storeByte b).staging = e.staging := rfl
@[simp] theorem Engine.storeByte_latch {V : Variant} (e : Engine V) (b : Byte) : (e.storeByte b).latch = e.latch := rfl
@[simp] theorem Engine.storeByte_params {V : Variant} (e : Engine V) (b : Byte) : (e.storeByte b).params = e.params := rfl
@[simp] theorem Engine.storeByte_h {V : Variant} (e : Engine V) (b : Byte) : (e.storeByte b).hash.h = e.hash.h := rfl
@[simp] theorem Engine.storeByte_t {V : Variant} (e : Engine V) (b : Byte) : (e.storeByte b).hash.t = e.hash.t := rfl
@[simp] theorem Engine.storeByte_f {V : Variant} (e : Engine V) (b : Byte) : (e.storeByte b).hash.f = e.hash.f := rfl
@[simp] theorem Engine.storeByte_buf {V : Variant} (e : Engine V) (b : Byte) :
    (e.storeByte b).hash.buf = e.hash.buf.setIfInBounds e.hash.cur b := rfl
@[simp] theorem Engine.storeByte_cur {V : Variant} (e : Engine V) (b : Byte) :
    (e.storeByte b).hash.cur = e.hash.cur + 1 := rfl
@[simp] theorem Engine.storeByte_scratch {V : Variant} (e : Engine V) (b : Byte) : (e.storeByte b).scratch = e.scratch := rfl
@[simp] theorem Engine.storeByte_output {V : Variant} (e : Engine V) (b : Byte) : (e.storeByte b).output = e.output := rfl

/-! FINALIZE, counter and flag (R211). -/

@[simp] theorem Engine.countTail_staging {V : Variant} (e : Engine V) : (e.countTail).staging = e.staging := rfl
@[simp] theorem Engine.countTail_latch {V : Variant} (e : Engine V) : (e.countTail).latch = e.latch := rfl
@[simp] theorem Engine.countTail_params {V : Variant} (e : Engine V) : (e.countTail).params = e.params := rfl
@[simp] theorem Engine.countTail_h {V : Variant} (e : Engine V) : (e.countTail).hash.h = e.hash.h := rfl
@[simp] theorem Engine.countTail_t {V : Variant} (e : Engine V) :
    (e.countTail).hash.t = ctrAdd e.hash.t e.hash.cur := rfl
@[simp] theorem Engine.countTail_f {V : Variant} (e : Engine V) :
    (e.countTail).hash.f = Word.ones V := rfl
@[simp] theorem Engine.countTail_buf {V : Variant} (e : Engine V) : (e.countTail).hash.buf = e.hash.buf := rfl
@[simp] theorem Engine.countTail_cur {V : Variant} (e : Engine V) : (e.countTail).hash.cur = e.hash.cur := rfl
@[simp] theorem Engine.countTail_scratch {V : Variant} (e : Engine V) : (e.countTail).scratch = e.scratch := rfl
@[simp] theorem Engine.countTail_output {V : Variant} (e : Engine V) : (e.countTail).output = e.output := rfl

/-! FINALIZE, output (R213). -/

@[simp] theorem Engine.putDigest_staging {V : Variant} (e : Engine V) : (e.putDigest).staging = e.staging := rfl
@[simp] theorem Engine.putDigest_latch {V : Variant} (e : Engine V) : (e.putDigest).latch = e.latch := rfl
@[simp] theorem Engine.putDigest_params {V : Variant} (e : Engine V) : (e.putDigest).params = e.params := rfl
@[simp] theorem Engine.putDigest_hash {V : Variant} (e : Engine V) : (e.putDigest).hash = e.hash := rfl
@[simp] theorem Engine.putDigest_scratch {V : Variant} (e : Engine V) : (e.putDigest).scratch = e.scratch := rfl
@[simp] theorem Engine.putDigest_dout {V : Variant} (e : Engine V) :
    (e.putDigest).output.dout = digestWindow e.hash.h e.params.dl := rfl
@[simp] theorem Engine.putDigest_outlen {V : Variant} (e : Engine V) :
    (e.putDigest).output.outlen = e.params.dl := rfl

/-! FINALIZE, zeroisation (R214). -/

@[simp] theorem Engine.zeroise_staging {V : Variant} (e : Engine V) : (e.zeroise).staging = e.staging := rfl
@[simp] theorem Engine.zeroise_latch {V : Variant} (e : Engine V) : (e.zeroise).latch = e.latch := rfl
@[simp] theorem Engine.zeroise_params {V : Variant} (e : Engine V) : (e.zeroise).params = e.params := rfl
@[simp] theorem Engine.zeroise_h {V : Variant} (e : Engine V) :
    (e.zeroise).hash.h = Vector.replicate 8 0 := rfl
@[simp] theorem Engine.zeroise_t {V : Variant} (e : Engine V) : (e.zeroise).hash.t = e.hash.t := rfl
@[simp] theorem Engine.zeroise_f {V : Variant} (e : Engine V) : (e.zeroise).hash.f = e.hash.f := rfl
@[simp] theorem Engine.zeroise_buf {V : Variant} (e : Engine V) :
    (e.zeroise).hash.buf = zeros _ := rfl
@[simp] theorem Engine.zeroise_cur {V : Variant} (e : Engine V) : (e.zeroise).hash.cur = e.hash.cur := rfl
@[simp] theorem Engine.zeroise_v {V : Variant} (e : Engine V) :
    (e.zeroise).scratch.v = Vector.replicate 16 0 := rfl
@[simp] theorem Engine.zeroise_m {V : Variant} (e : Engine V) : (e.zeroise).scratch.m = e.scratch.m := rfl
@[simp] theorem Engine.zeroise_output {V : Variant} (e : Engine V) : (e.zeroise).output = e.output := rfl

/-! FINALIZE (R210 to R215). -/

@[simp] theorem Engine.finalize_staging {V : Variant} (e : Engine V) : (e.finalize).staging = e.staging := rfl
@[simp] theorem Engine.finalize_latch {V : Variant} (e : Engine V) : (e.finalize).latch = e.latch := rfl
@[simp] theorem Engine.finalize_params {V : Variant} (e : Engine V) : (e.finalize).params = e.params := rfl
@[simp] theorem Engine.finalize_h {V : Variant} (e : Engine V) :
    (e.finalize).hash.h = paramInit e.params := rfl
@[simp] theorem Engine.finalize_t {V : Variant} (e : Engine V) :
    (e.finalize).hash.t = 0 := rfl
@[simp] theorem Engine.finalize_f {V : Variant} (e : Engine V) :
    (e.finalize).hash.f = 0 := rfl
@[simp] theorem Engine.finalize_buf {V : Variant} (e : Engine V) :
    (e.finalize).hash.buf = primedBuffer e.params := rfl
@[simp] theorem Engine.finalize_cur {V : Variant} (e : Engine V) :
    (e.finalize).hash.cur = primedCursor e.params := rfl
@[simp] theorem Engine.finalize_v {V : Variant} (e : Engine V) :
    (e.finalize).scratch.v = Vector.replicate 16 0 := rfl
@[simp] theorem Engine.finalize_m {V : Variant} (e : Engine V) :
    (e.finalize).scratch.m = messageWords e.hash.buf := rfl
@[simp] theorem Engine.finalize_dout {V : Variant} (e : Engine V) :
    (e.finalize).output.dout = digestWindow (compress e.hash.h e.hash.buf (ctrAdd e.hash.t e.hash.cur) true) e.params.dl := rfl
@[simp] theorem Engine.finalize_outlen {V : Variant} (e : Engine V) :
    (e.finalize).output.outlen = e.params.dl := rfl

/-! CONFIGURE's latching (R150). -/

@[simp] theorem Engine.latchParams_staging {V : Variant} (e : Engine V) (d k : Nat) : (e.latchParams d k).staging = e.staging := rfl
@[simp] theorem Engine.latchParams_latch {V : Variant} (e : Engine V) (d k : Nat) : (e.latchParams d k).latch = e.latch := rfl
@[simp] theorem Engine.latchParams_hash {V : Variant} (e : Engine V) (d k : Nat) : (e.latchParams d k).hash = e.hash := rfl
@[simp] theorem Engine.latchParams_scratch {V : Variant} (e : Engine V) (d k : Nat) : (e.latchParams d k).scratch = e.scratch := rfl
@[simp] theorem Engine.latchParams_dout {V : Variant} (e : Engine V) (d k : Nat) :
    (e.latchParams d k).output.dout = zeros 64 := rfl
@[simp] theorem Engine.latchParams_outlen {V : Variant} (e : Engine V) (d k : Nat) :
    (e.latchParams d k).output.outlen = 0 := rfl

/-! The KEY staging zeroed (R222). -/

@[simp] theorem Engine.zeroKeyStaging_cfg {V : Variant} (e : Engine V) : (e.zeroKeyStaging).staging.cfg = e.staging.cfg := rfl
@[simp] theorem Engine.zeroKeyStaging_cfglen {V : Variant} (e : Engine V) : (e.zeroKeyStaging).staging.cfglen = e.staging.cfglen := rfl
@[simp] theorem Engine.zeroKeyStaging_keys {V : Variant} (e : Engine V) :
    (e.zeroKeyStaging).staging.keys = zeros 64 := rfl
@[simp] theorem Engine.zeroKeyStaging_salts {V : Variant} (e : Engine V) : (e.zeroKeyStaging).staging.salts = e.staging.salts := rfl
@[simp] theorem Engine.zeroKeyStaging_perss {V : Variant} (e : Engine V) : (e.zeroKeyStaging).staging.perss = e.staging.perss := rfl
@[simp] theorem Engine.zeroKeyStaging_inbuf {V : Variant} (e : Engine V) : (e.zeroKeyStaging).staging.inbuf = e.staging.inbuf := rfl
@[simp] theorem Engine.zeroKeyStaging_latch {V : Variant} (e : Engine V) : (e.zeroKeyStaging).latch = e.latch := rfl
@[simp] theorem Engine.zeroKeyStaging_params {V : Variant} (e : Engine V) : (e.zeroKeyStaging).params = e.params := rfl
@[simp] theorem Engine.zeroKeyStaging_hash {V : Variant} (e : Engine V) : (e.zeroKeyStaging).hash = e.hash := rfl
@[simp] theorem Engine.zeroKeyStaging_scratch {V : Variant} (e : Engine V) : (e.zeroKeyStaging).scratch = e.scratch := rfl
@[simp] theorem Engine.zeroKeyStaging_output {V : Variant} (e : Engine V) : (e.zeroKeyStaging).output = e.output := rfl

/-! The live key material zeroed (R222). -/

@[simp] theorem Engine.zeroLiveKey_staging {V : Variant} (e : Engine V) : (e.zeroLiveKey).staging = e.staging := rfl
@[simp] theorem Engine.zeroLiveKey_latch {V : Variant} (e : Engine V) : (e.zeroLiveKey).latch = e.latch := rfl
@[simp] theorem Engine.zeroLiveKey_configured {V : Variant} (e : Engine V) : (e.zeroLiveKey).params.configured = e.params.configured := rfl
@[simp] theorem Engine.zeroLiveKey_dl {V : Variant} (e : Engine V) : (e.zeroLiveKey).params.dl = e.params.dl := rfl
@[simp] theorem Engine.zeroLiveKey_kl {V : Variant} (e : Engine V) : (e.zeroLiveKey).params.kl = e.params.kl := rfl
@[simp] theorem Engine.zeroLiveKey_keyr {V : Variant} (e : Engine V) :
    (e.zeroLiveKey).params.keyr = zeros _ := rfl
@[simp] theorem Engine.zeroLiveKey_saltp {V : Variant} (e : Engine V) : (e.zeroLiveKey).params.saltp = e.params.saltp := rfl
@[simp] theorem Engine.zeroLiveKey_saltr {V : Variant} (e : Engine V) : (e.zeroLiveKey).params.saltr = e.params.saltr := rfl
@[simp] theorem Engine.zeroLiveKey_persp {V : Variant} (e : Engine V) : (e.zeroLiveKey).params.persp = e.params.persp := rfl
@[simp] theorem Engine.zeroLiveKey_persr {V : Variant} (e : Engine V) : (e.zeroLiveKey).params.persr = e.params.persr := rfl
@[simp] theorem Engine.zeroLiveKey_h {V : Variant} (e : Engine V) : (e.zeroLiveKey).hash.h = e.hash.h := rfl
@[simp] theorem Engine.zeroLiveKey_t {V : Variant} (e : Engine V) : (e.zeroLiveKey).hash.t = e.hash.t := rfl
@[simp] theorem Engine.zeroLiveKey_f {V : Variant} (e : Engine V) : (e.zeroLiveKey).hash.f = e.hash.f := rfl
@[simp] theorem Engine.zeroLiveKey_buf {V : Variant} (e : Engine V) :
    (e.zeroLiveKey).hash.buf = zeros _ := rfl
@[simp] theorem Engine.zeroLiveKey_cur {V : Variant} (e : Engine V) : (e.zeroLiveKey).hash.cur = e.hash.cur := rfl
@[simp] theorem Engine.zeroLiveKey_scratch {V : Variant} (e : Engine V) : (e.zeroLiveKey).scratch = e.scratch := rfl
@[simp] theorem Engine.zeroLiveKey_output {V : Variant} (e : Engine V) : (e.zeroLiveKey).output = e.output := rfl

/-! The SALT staging zeroed (R226). -/

@[simp] theorem Engine.zeroSaltStaging_cfg {V : Variant} (e : Engine V) : (e.zeroSaltStaging).staging.cfg = e.staging.cfg := rfl
@[simp] theorem Engine.zeroSaltStaging_cfglen {V : Variant} (e : Engine V) : (e.zeroSaltStaging).staging.cfglen = e.staging.cfglen := rfl
@[simp] theorem Engine.zeroSaltStaging_keys {V : Variant} (e : Engine V) : (e.zeroSaltStaging).staging.keys = e.staging.keys := rfl
@[simp] theorem Engine.zeroSaltStaging_salts {V : Variant} (e : Engine V) :
    (e.zeroSaltStaging).staging.salts = zeros 16 := rfl
@[simp] theorem Engine.zeroSaltStaging_perss {V : Variant} (e : Engine V) : (e.zeroSaltStaging).staging.perss = e.staging.perss := rfl
@[simp] theorem Engine.zeroSaltStaging_inbuf {V : Variant} (e : Engine V) : (e.zeroSaltStaging).staging.inbuf = e.staging.inbuf := rfl
@[simp] theorem Engine.zeroSaltStaging_latch {V : Variant} (e : Engine V) : (e.zeroSaltStaging).latch = e.latch := rfl
@[simp] theorem Engine.zeroSaltStaging_params {V : Variant} (e : Engine V) : (e.zeroSaltStaging).params = e.params := rfl
@[simp] theorem Engine.zeroSaltStaging_hash {V : Variant} (e : Engine V) : (e.zeroSaltStaging).hash = e.hash := rfl
@[simp] theorem Engine.zeroSaltStaging_scratch {V : Variant} (e : Engine V) : (e.zeroSaltStaging).scratch = e.scratch := rfl
@[simp] theorem Engine.zeroSaltStaging_output {V : Variant} (e : Engine V) : (e.zeroSaltStaging).output = e.output := rfl

/-! The retained salt zeroed (R226). -/

@[simp] theorem Engine.zeroRetainedSalt_staging {V : Variant} (e : Engine V) : (e.zeroRetainedSalt).staging = e.staging := rfl
@[simp] theorem Engine.zeroRetainedSalt_latch {V : Variant} (e : Engine V) : (e.zeroRetainedSalt).latch = e.latch := rfl
@[simp] theorem Engine.zeroRetainedSalt_configured {V : Variant} (e : Engine V) : (e.zeroRetainedSalt).params.configured = e.params.configured := rfl
@[simp] theorem Engine.zeroRetainedSalt_dl {V : Variant} (e : Engine V) : (e.zeroRetainedSalt).params.dl = e.params.dl := rfl
@[simp] theorem Engine.zeroRetainedSalt_kl {V : Variant} (e : Engine V) : (e.zeroRetainedSalt).params.kl = e.params.kl := rfl
@[simp] theorem Engine.zeroRetainedSalt_keyr {V : Variant} (e : Engine V) : (e.zeroRetainedSalt).params.keyr = e.params.keyr := rfl
@[simp] theorem Engine.zeroRetainedSalt_saltp {V : Variant} (e : Engine V) : (e.zeroRetainedSalt).params.saltp = e.params.saltp := rfl
@[simp] theorem Engine.zeroRetainedSalt_saltr {V : Variant} (e : Engine V) :
    (e.zeroRetainedSalt).params.saltr = zeros _ := rfl
@[simp] theorem Engine.zeroRetainedSalt_persp {V : Variant} (e : Engine V) : (e.zeroRetainedSalt).params.persp = e.params.persp := rfl
@[simp] theorem Engine.zeroRetainedSalt_persr {V : Variant} (e : Engine V) : (e.zeroRetainedSalt).params.persr = e.params.persr := rfl
@[simp] theorem Engine.zeroRetainedSalt_hash {V : Variant} (e : Engine V) : (e.zeroRetainedSalt).hash = e.hash := rfl
@[simp] theorem Engine.zeroRetainedSalt_scratch {V : Variant} (e : Engine V) : (e.zeroRetainedSalt).scratch = e.scratch := rfl
@[simp] theorem Engine.zeroRetainedSalt_output {V : Variant} (e : Engine V) : (e.zeroRetainedSalt).output = e.output := rfl

/-! CONFIGURE's commit (R150). -/

@[simp] theorem Engine.latchParams_params {V : Variant} (e : Engine V) (d k : Nat) :
    (e.latchParams d k).params = configuredParams V e.staging d k := rfl
@[simp] theorem Engine.commit_staging {V : Variant} (e : Engine V) (d k : Nat) : (e.commit d k).staging = e.staging := rfl
@[simp] theorem Engine.commit_latch {V : Variant} (e : Engine V) (d k : Nat) : (e.commit d k).latch = e.latch := rfl
@[simp] theorem Engine.commit_scratch {V : Variant} (e : Engine V) (d k : Nat) : (e.commit d k).scratch = e.scratch := rfl
@[simp] theorem Engine.commit_params {V : Variant} (e : Engine V) (d k : Nat) :
    (e.commit d k).params = configuredParams V e.staging d k := rfl
@[simp] theorem Engine.commit_output {V : Variant} (e : Engine V) (d k : Nat) : (e.commit d k).output = ⟨zeros 64, 0⟩ := rfl
theorem Engine.commit_eq_reinit {V : Variant} (e : Engine V) (d k : Nat) : e.commit d k = (e.latchParams d k).reinit := rfl
@[simp] theorem Engine.commit_h {V : Variant} (e : Engine V) (d k : Nat) :
    (e.commit d k).hash.h = paramInit (configuredParams V e.staging d k) := (e.latchParams d k).reinit_h
@[simp] theorem Engine.commit_t {V : Variant} (e : Engine V) (d k : Nat) : (e.commit d k).hash.t = 0 := rfl
@[simp] theorem Engine.commit_f {V : Variant} (e : Engine V) (d k : Nat) : (e.commit d k).hash.f = 0 := rfl
@[simp] theorem Engine.commit_buf {V : Variant} (e : Engine V) (d k : Nat) :
    (e.commit d k).hash.buf = primedBuffer (configuredParams V e.staging d k) := (e.latchParams d k).reinit_buf
@[simp] theorem Engine.commit_cur {V : Variant} (e : Engine V) (d k : Nat) :
    (e.commit d k).hash.cur = primedCursor (configuredParams V e.staging d k) := (e.latchParams d k).reinit_cur

/-- R213: byte `j` of the window. -/
@[simp] theorem digestWindow_getElem {V : Variant} (h : Vector (Word V) 8) (dl j : Nat) (hj : j < 64) :
    (digestWindow h dl)[j] = if j < dl then digestByte h j else 0 := by
  simp [digestWindow]

/-! CLEAR_KEY and CLEAR_SALT (R222, R226). -/

@[simp] theorem Engine.clearKey_latch {V : Variant} (e : Engine V) : e.clearKey.latch = e.latch := by
  unfold Engine.clearKey; split <;> rfl
@[simp] theorem Engine.clearKey_scratch {V : Variant} (e : Engine V) : e.clearKey.scratch = e.scratch := by
  unfold Engine.clearKey; split <;> rfl
@[simp] theorem Engine.clearKey_output {V : Variant} (e : Engine V) : e.clearKey.output = e.output := by
  unfold Engine.clearKey; split <;> rfl
@[simp] theorem Engine.clearKey_staging {V : Variant} (e : Engine V) :
    e.clearKey.staging = { e.staging with keys := zeros 64 } := by
  unfold Engine.clearKey; split <;> rfl
@[simp] theorem Engine.clearKey_configured {V : Variant} (e : Engine V) : e.clearKey.params.configured = e.params.configured := by
  unfold Engine.clearKey; split <;> rfl
@[simp] theorem Engine.clearKey_dl {V : Variant} (e : Engine V) : e.clearKey.params.dl = e.params.dl := by
  unfold Engine.clearKey; split <;> rfl
@[simp] theorem Engine.clearKey_kl {V : Variant} (e : Engine V) : e.clearKey.params.kl = e.params.kl := by
  unfold Engine.clearKey; split <;> rfl
@[simp] theorem Engine.clearKey_saltp {V : Variant} (e : Engine V) : e.clearKey.params.saltp = e.params.saltp := by
  unfold Engine.clearKey; split <;> rfl
@[simp] theorem Engine.clearKey_saltr {V : Variant} (e : Engine V) : e.clearKey.params.saltr = e.params.saltr := by
  unfold Engine.clearKey; split <;> rfl
@[simp] theorem Engine.clearKey_persp {V : Variant} (e : Engine V) : e.clearKey.params.persp = e.params.persp := by
  unfold Engine.clearKey; split <;> rfl
@[simp] theorem Engine.clearKey_persr {V : Variant} (e : Engine V) : e.clearKey.params.persr = e.params.persr := by
  unfold Engine.clearKey; split <;> rfl
@[simp] theorem Engine.clearKey_h {V : Variant} (e : Engine V) : e.clearKey.hash.h = e.hash.h := by
  unfold Engine.clearKey; split <;> rfl
@[simp] theorem Engine.clearKey_t {V : Variant} (e : Engine V) : e.clearKey.hash.t = e.hash.t := by
  unfold Engine.clearKey; split <;> rfl
@[simp] theorem Engine.clearKey_f {V : Variant} (e : Engine V) : e.clearKey.hash.f = e.hash.f := by
  unfold Engine.clearKey; split <;> rfl
@[simp] theorem Engine.clearKey_cur {V : Variant} (e : Engine V) : e.clearKey.hash.cur = e.hash.cur := by
  unfold Engine.clearKey; split <;> rfl
@[simp] theorem Engine.clearKey_keyr {V : Variant} (e : Engine V) :
    e.clearKey.params.keyr = if 0 < e.params.kl then zeros _ else e.params.keyr := by
  unfold Engine.clearKey; split <;> simp_all
@[simp] theorem Engine.clearKey_buf {V : Variant} (e : Engine V) :
    e.clearKey.hash.buf = if 0 < e.params.kl then zeros _ else e.hash.buf := by
  unfold Engine.clearKey; split <;> simp_all
@[simp] theorem Engine.clearSalt_latch {V : Variant} (e : Engine V) : e.clearSalt.latch = e.latch := by
  unfold Engine.clearSalt; split <;> rfl
@[simp] theorem Engine.clearSalt_hash {V : Variant} (e : Engine V) : e.clearSalt.hash = e.hash := by
  unfold Engine.clearSalt; split <;> rfl
@[simp] theorem Engine.clearSalt_scratch {V : Variant} (e : Engine V) : e.clearSalt.scratch = e.scratch := by
  unfold Engine.clearSalt; split <;> rfl
@[simp] theorem Engine.clearSalt_output {V : Variant} (e : Engine V) : e.clearSalt.output = e.output := by
  unfold Engine.clearSalt; split <;> rfl
@[simp] theorem Engine.clearSalt_staging {V : Variant} (e : Engine V) :
    e.clearSalt.staging = { e.staging with salts := zeros 16 } := by
  unfold Engine.clearSalt; split <;> rfl
@[simp] theorem Engine.clearSalt_configured {V : Variant} (e : Engine V) : e.clearSalt.params.configured = e.params.configured := by
  unfold Engine.clearSalt; split <;> rfl
@[simp] theorem Engine.clearSalt_dl {V : Variant} (e : Engine V) : e.clearSalt.params.dl = e.params.dl := by
  unfold Engine.clearSalt; split <;> rfl
@[simp] theorem Engine.clearSalt_kl {V : Variant} (e : Engine V) : e.clearSalt.params.kl = e.params.kl := by
  unfold Engine.clearSalt; split <;> rfl
@[simp] theorem Engine.clearSalt_keyr {V : Variant} (e : Engine V) : e.clearSalt.params.keyr = e.params.keyr := by
  unfold Engine.clearSalt; split <;> rfl
@[simp] theorem Engine.clearSalt_saltp {V : Variant} (e : Engine V) : e.clearSalt.params.saltp = e.params.saltp := by
  unfold Engine.clearSalt; split <;> rfl
@[simp] theorem Engine.clearSalt_persp {V : Variant} (e : Engine V) : e.clearSalt.params.persp = e.params.persp := by
  unfold Engine.clearSalt; split <;> rfl
@[simp] theorem Engine.clearSalt_persr {V : Variant} (e : Engine V) : e.clearSalt.params.persr = e.params.persr := by
  unfold Engine.clearSalt; split <;> rfl
@[simp] theorem Engine.clearSalt_saltr {V : Variant} (e : Engine V) :
    e.clearSalt.params.saltr = if e.params.saltp then zeros _ else e.params.saltr := by
  unfold Engine.clearSalt; split <;> simp_all

/-! AbsorbByte (R201) and its fold (R206). -/

@[simp] theorem Engine.absorbByte_staging {V : Variant} (e : Engine V) (b : Byte) : (e.absorbByte b).staging = e.staging := by
  unfold Engine.absorbByte; split <;> rfl
@[simp] theorem Engine.absorbByte_latch {V : Variant} (e : Engine V) (b : Byte) : (e.absorbByte b).latch = e.latch := by
  unfold Engine.absorbByte; split <;> rfl
@[simp] theorem Engine.absorbByte_params {V : Variant} (e : Engine V) (b : Byte) : (e.absorbByte b).params = e.params := by
  unfold Engine.absorbByte; split <;> rfl
@[simp] theorem Engine.absorbByte_output {V : Variant} (e : Engine V) (b : Byte) : (e.absorbByte b).output = e.output := by
  unfold Engine.absorbByte; split <;> rfl
@[simp] theorem Engine.absorbBytes_staging {V : Variant} (e : Engine V) (bs : List Byte) : (e.absorbBytes bs).staging = e.staging := by
  induction bs generalizing e with
  | nil => rfl
  | cons b bs ih => exact (ih (e.absorbByte b)).trans (e.absorbByte_staging b)
@[simp] theorem Engine.absorbBytes_latch {V : Variant} (e : Engine V) (bs : List Byte) : (e.absorbBytes bs).latch = e.latch := by
  induction bs generalizing e with
  | nil => rfl
  | cons b bs ih => exact (ih (e.absorbByte b)).trans (e.absorbByte_latch b)
@[simp] theorem Engine.absorbBytes_params {V : Variant} (e : Engine V) (bs : List Byte) : (e.absorbBytes bs).params = e.params := by
  induction bs generalizing e with
  | nil => rfl
  | cons b bs ih => exact (ih (e.absorbByte b)).trans (e.absorbByte_params b)
@[simp] theorem Engine.absorbBytes_output {V : Variant} (e : Engine V) (bs : List Byte) : (e.absorbBytes bs).output = e.output := by
  induction bs generalizing e with
  | nil => rfl
  | cons b bs ih => exact (ih (e.absorbByte b)).trans (e.absorbByte_output b)
@[simp] theorem Engine.absorbByte_f {V : Variant} (e : Engine V) (b : Byte) : (e.absorbByte b).hash.f = e.hash.f := by
  unfold Engine.absorbByte; split <;> rfl
@[simp] theorem Engine.absorbBytes_nil {V : Variant} (e : Engine V) : e.absorbBytes [] = e := rfl
@[simp] theorem Engine.absorbBytes_cons {V : Variant} (e : Engine V) (b : Byte) (bs : List Byte) :
    e.absorbBytes (b :: bs) = (e.absorbByte b).absorbBytes bs := rfl

/-- With room in the buffer no compression runs (R205). -/
theorem Engine.absorbByte_room {V : Variant} (e : Engine V) (b : Byte) (h : e.hash.cur ≠ V.blockBytes) :
    e.absorbByte b = e.storeByte b := by
  unfold Engine.absorbByte; rw [if_neg h]

/-- With a full buffer one compression runs first (R205). -/
theorem Engine.absorbByte_full {V : Variant} (e : Engine V) (b : Byte) (h : e.hash.cur = V.blockBytes) :
    e.absorbByte b = e.flush.storeByte b := by
  unfold Engine.absorbByte; rw [if_pos h]

/-! The build parameters of each variant (R6). -/

@[simp] theorem blockBytes_blake2s : Variant.blake2s.blockBytes = 64 := rfl
@[simp] theorem blockBytes_blake2b : Variant.blake2b.blockBytes = 128 := rfl
@[simp] theorem maxDigest_blake2s : Variant.blake2s.maxDigest = 32 := rfl
@[simp] theorem maxDigest_blake2b : Variant.blake2b.maxDigest = 64 := rfl
@[simp] theorem saltBytes_blake2s : Variant.blake2s.saltBytes = 8 := rfl
@[simp] theorem saltBytes_blake2b : Variant.blake2b.saltBytes = 16 := rfl
@[simp] theorem wordBytes_blake2s : Variant.blake2s.wordBytes = 4 := rfl
@[simp] theorem wordBytes_blake2b : Variant.blake2b.wordBytes = 8 := rfl
@[simp] theorem wordBits_blake2s : Variant.blake2s.wordBits = 32 := rfl
@[simp] theorem wordBits_blake2b : Variant.blake2b.wordBits = 64 := rfl
@[simp] theorem counterBits_blake2s : Variant.blake2s.counterBits = 64 := rfl
@[simp] theorem counterBits_blake2b : Variant.blake2b.counterBits = 128 := rfl

end Sys2Proof.Machine
end

