-- ==== Sys2Proof/Laws/Ops.lean ====
section
/-!
SUPPORT. One specification lemma for each shared operation: everything it can do, for a proof to cite in the place of
its definition.
-/

namespace Sys2Proof.Machine

/-- What a command does to the engine, with the checks of R96 on the state. -/
def Engine.effect {V : Variant} (i : Instr) (e : Engine V) : Except ErrCode (Engine V) :=
  match i with
  | .configure => e.configure
  | .absorbByte b => e.whenConfigured (.ok (e.absorbByte b))
  | .absorb n => e.whenConfigured (e.absorb n)
  | .finalize => e.whenConfigured (.ok e.finalize)
  | .reset => e.whenConfigured (.ok e.reinit)
  | .clearKey => e.whenConfigured (.ok e.clearKey)
  | .clearSalt => e.whenConfigured (.ok e.clearSalt)

/-- Every command is the completion of its effect. -/
theorem exec_mk (i : Instr) (V : Variant) (e : Engine V) (hs : HostSide) :
    exec i ⟨V, e, hs⟩ = .next ⟨V, e.finish (e.effect i), hs⟩ := by
  cases i <;> rfl

@[simp] theorem Engine.finish_ok {V : Variant} (e e' : Engine V) : e.finish (.ok e') = e'.succeed := rfl
@[simp] theorem Engine.finish_error {V : Variant} (e : Engine V) (E : ErrCode) : e.finish (.error E) = e.raise E := rfl

/-- What a finished command leaves: its effect and success, or the engine as it was and an error. -/
theorem Engine.finish_cases {V : Variant} (e : Engine V) (r : Except ErrCode (Engine V)) :
    (∃ e', r = .ok e' ∧ e.finish r = e'.succeed) ∨ (∃ E, r = .error E ∧ e.finish r = e.raise E) := by
  cases r with
  | ok e' => exact .inl ⟨e', rfl, rfl⟩
  | error E => exact .inr ⟨E, rfl, rfl⟩

@[simp] theorem Engine.whenConfigured_true {V : Variant} (e : Engine V) (r : Except ErrCode (Engine V))
    (h : e.params.configured = true) : e.whenConfigured r = r := by
  simp [Engine.whenConfigured, h]

@[simp] theorem Engine.whenConfigured_false {V : Variant} (e : Engine V) (r : Except ErrCode (Engine V))
    (h : e.params.configured = false) : e.whenConfigured r = .error .notConfigured := by
  simp [Engine.whenConfigured, h]

/-- If a command's effect is not an error, there is an instance, or the command is CONFIGURE; and its engine is the
effect of the command's own rule. -/
theorem Engine.effect_ok_cases {V : Variant} {i : Instr} {e e' : Engine V} (h : e.effect i = .ok e') :
    (i = .configure ∧ ∃ d k, configureChecks V e.staging.cfg e.staging.cfglen = .ok (d, k) ∧ e' = e.commit d k) ∨
    (e.params.configured = true ∧
      ((∃ b, i = .absorbByte b ∧ e' = e.absorbByte b) ∨
       (∃ n, i = .absorb n ∧ n ≤ V.blockBytes ∧ e' = e.absorbBytes (e.staging.inbuf.toList.take n)) ∨
       (i = .finalize ∧ e' = e.finalize) ∨ (i = .reset ∧ e' = e.reinit) ∨
       (i = .clearKey ∧ e' = e.clearKey) ∨ (i = .clearSalt ∧ e' = e.clearSalt))) := by
  cases i with
  | configure =>
    refine .inl ⟨rfl, ?_⟩
    simp only [Engine.effect, Engine.configure] at h
    split at h
    · cases h
    · rename_i d k hc; cases h; exact ⟨d, k, hc, rfl⟩
  | absorbByte b =>
    cases hc : e.params.configured <;> simp [Engine.effect, Engine.whenConfigured, hc] at h
    exact .inr ⟨rfl, .inl ⟨b, rfl, h.symm⟩⟩
  | absorb n =>
    cases hc : e.params.configured <;> simp [Engine.effect, Engine.whenConfigured, Engine.absorb, hc] at h
    split at h
    · cases h
    · rename_i hn; cases h; exact .inr ⟨rfl, .inr (.inl ⟨n, rfl, Nat.le_of_not_lt hn, rfl⟩)⟩
  | finalize =>
    cases hc : e.params.configured <;> simp [Engine.effect, Engine.whenConfigured, hc] at h
    exact .inr ⟨rfl, .inr (.inr (.inl ⟨rfl, h.symm⟩))⟩
  | reset =>
    cases hc : e.params.configured <;> simp [Engine.effect, Engine.whenConfigured, hc] at h
    exact .inr ⟨rfl, .inr (.inr (.inr (.inl ⟨rfl, h.symm⟩)))⟩
  | clearKey =>
    cases hc : e.params.configured <;> simp [Engine.effect, Engine.whenConfigured, hc] at h
    exact .inr ⟨rfl, .inr (.inr (.inr (.inr (.inl ⟨rfl, h.symm⟩))))⟩
  | clearSalt =>
    cases hc : e.params.configured <;> simp [Engine.effect, Engine.whenConfigured, hc] at h
    exact .inr ⟨rfl, .inr (.inr (.inr (.inr (.inr ⟨rfl, h.symm⟩))))⟩

/-- R146: CONFIGURE fails with no other code than INVALID_PARAMETER. -/
theorem configureChecks_error {V : Variant} {c cl : BitVec 32} {E : ErrCode}
    (h : configureChecks V c cl = .error E) : E = .invalidParameter := by
  unfold configureChecks at h
  split at h
  · cases h; rfl
  · split at h
    · cases h; rfl
    · split at h
      · cases h; rfl
      · split at h
        · cases h; rfl
        · split at h
          · cases h; rfl
          · split at h
            · cases h; rfl
            · cases h

/-- R150: CONFIGURE whose checks pass commits. -/
theorem Engine.configure_ok {V : Variant} {e : Engine V} {d k : Nat}
    (h : configureChecks V e.staging.cfg e.staging.cfglen = .ok (d, k)) : e.configure = .ok (e.commit d k) := by
  simp [Engine.configure, h]

/-- R151: CONFIGURE whose checks fail has no effect. -/
theorem Engine.configure_error {V : Variant} {e : Engine V} {E : ErrCode}
    (h : configureChecks V e.staging.cfg e.staging.cfglen = .error E) : e.configure = .error E := by
  simp [Engine.configure, h]

/-- R61: the window is the offsets below 0x200. -/
theorem inWindow_iff (off : Nat) : inWindow off = true ↔ off < 0x200 := decide_eq_true_iff

/-- R61: an offset from 0x200 on is outside the window. -/
theorem inWindow_false_iff (off : Nat) : inWindow off = false ↔ 0x200 ≤ off := by
  rw [← Bool.not_eq_true, inWindow_iff, Nat.not_lt]

/-- R64: an access is admitted exactly when it is 32 bits wide and aligned. -/
theorem admitted_iff (off width : Nat) : admitted off width = true ↔ width = 32 ∧ off % 4 = 0 := by
  simp [admitted, Config.busBits]

/-- R64: an access is not admitted exactly when its width or its offset is wrong. -/
theorem admitted_false_iff (off width : Nat) : admitted off width = false ↔ width ≠ 32 ∨ off % 4 ≠ 0 := by
  rw [← Bool.not_eq_true, admitted_iff]; omega

/-- One host write, on a state given by its parts. -/
theorem hostWrite_mk (V : Variant) (e : Engine V) (hs : HostSide) (off width : Nat) (x : BitVec 32) :
    hostWrite ⟨V, e, hs⟩ off width x =
      if inWindow off = false then .next ⟨V, e, hs⟩
      else if admitted off width = false then .fault (.busFault off width)
      else if e.latch.busy = true then .fault (.hostWriteWhileBusy off)
      else .next ⟨V, e.writeReg (regAt off) x, { hs with awaiting := awaitingAfterWrite hs.awaiting off }⟩ := rfl

/-- The value of a host read, on a state given by its parts. -/
theorem State.readValue_mk (V : Variant) (e : Engine V) (hs : HostSide) (off width : Nat) :
    State.readValue ⟨V, e, hs⟩ off width =
      if inWindow off = false then .ok (Config.outsideRead hs.draws)
      else if admitted off width = false then .error (.busFault off width)
      else if e.latch.busy = true then .ok (busyValue (regAt off) hs.draws)
      else .ok (e.readReg (regAt off)) := rfl

/-- The host's record of a read, on a state given by its parts. -/
theorem State.recordRead_mk (V : Variant) (e : Engine V) (hs : HostSide) (off : Nat) (x : BitVec 32) :
    State.recordRead ⟨V, e, hs⟩ off x =
      ⟨V, e, { hs with
        observed := hs.observed ++ [x]
        draws := if (!inWindow off || e.latch.busy) = true then hs.draws + 1 else hs.draws
        awaiting := awaitingAfterRead hs.awaiting off x }⟩ := rfl

/-- R284: only a STATUS read that returns BUSY = 0 ends the wait. -/
theorem awaitingAfterRead_eq (a : Bool) (off : Nat) (x : BitVec 32) :
    awaitingAfterRead a off x = if off = offStatus ∧ x.getLsbD 0 = false then false else a := by
  unfold awaitingAfterRead
  cases a <;> cases x.getLsbD 0 <;> by_cases h : off = offStatus <;> simp [h]

/-- R284: only a CMD write starts one. -/
theorem awaitingAfterWrite_eq (a : Bool) (off : Nat) :
    awaitingAfterWrite a off = if off = offCmd then true else a := by
  unfold awaitingAfterWrite
  cases a <;> by_cases h : off = offCmd <;> simp [h]

/-- R35: bit 0 of STATUS is `busy`. -/
theorem Engine.status_bit0 {V : Variant} (e : Engine V) : e.status.getLsbD 0 = e.latch.busy := by
  simp only [Engine.status, BitVec.getLsbD_append]
  simp

/-- R103: a poll of an idle engine reads its STATUS and ends the loop. -/
theorem hostPoll_idle {V : Variant} {e : Engine V} (hs : HostSide) (rest : List HostOp) (h : e.latch.busy = false) :
    hostPoll ⟨V, e, hs⟩ rest =
      .next ⟨V, e, { hs with program := rest, observed := hs.observed ++ [e.status], awaiting := false }⟩ := by
  have hb : e.status.getLsbD 0 = false := by rw [Engine.status_bit0, h]
  have hv : State.readValue ⟨V, e, hs⟩ offStatus Config.busBits = .ok e.status := by
    rw [State.readValue_mk, if_neg (by decide), if_neg (by decide), if_neg (by simp [h])]; rfl
  simp [hostPoll, hv, State.recordRead_mk, awaitingAfterRead_eq, -BitVec.getLsbD_eq_getElem, hb, h, (inWindow_iff offStatus).2 (by decide)]

/-- R103, R71: a poll of a busy engine takes a free value with bit 0 set, and the loop goes on. -/
theorem hostPoll_busy {V : Variant} {e : Engine V} (hs : HostSide) (rest : List HostOp) (h : e.latch.busy = true) :
    hostPoll ⟨V, e, hs⟩ rest =
      .next ⟨V, e, { hs with observed := hs.observed ++ [busyValue .status hs.draws], draws := hs.draws + 1 }⟩ := by
  have hb : (busyValue .status hs.draws).getLsbD 0 = true := by simp [busyValue]
  have hv : State.readValue ⟨V, e, hs⟩ offStatus Config.busBits = .ok (busyValue .status hs.draws) := by
    rw [State.readValue_mk, if_neg (by decide), if_neg (by decide), if_pos h]; rfl
  simp [hostPoll, hv, State.recordRead_mk, awaitingAfterRead_eq, -BitVec.getLsbD_eq_getElem, hb, h]

/-- R284: what it takes for a run to have ended. -/
theorem State.runEnded_iff (s : State) : s.runEnded = true ↔ s.host.program = [] ∧ s.host.awaiting = false := by
  simp [State.runEnded]

/-- What the host's next operation can do when it does not fault: leave the engine as it is, or change it by one
register write while idle. -/
theorem hostStep_next {V : Variant} {e : Engine V} {hs : HostSide} {t : State} (h : hostStep ⟨V, e, hs⟩ = .next t) :
    ∃ (e' : Engine V) (hs' : HostSide), t = ⟨V, e', hs'⟩ ∧
      (e' = e ∨ ∃ off x rest, hs.program = .write off Config.busBits x :: rest ∧ inWindow off = true ∧
        admitted off Config.busBits = true ∧ e.latch.busy = false ∧ e' = e.writeReg (regAt off) x) := by
  unfold hostStep at h
  split at h
  · cases h; exact ⟨e, hs, rfl, .inl rfl⟩
  · unfold hostRead at h
    split at h
    · cases h; exact ⟨e, _, rfl, .inl rfl⟩
    · cases h
  · rename_i off width x rest hp
    unfold hostWrite at h
    split at h
    · cases h; exact ⟨e, _, rfl, .inl rfl⟩
    · rename_i hw
      split at h
      · cases h
      · rename_i ha
        split at h
        · cases h
        · rename_i hb
          cases h
          have hwd : width = Config.busBits := by
            simp only [Bool.not_eq_false, admitted, Bool.and_eq_true, beq_iff_eq] at ha; exact ha.1
          subst hwd
          exact ⟨_, _, rfl, .inr ⟨off, x, rest, hp, by simpa using hw, by simpa using ha, by simpa using hb, rfl⟩⟩
  · unfold hostPoll at h
    split at h
    · cases h
      split
      · exact ⟨e, _, rfl, .inl rfl⟩
      · exact ⟨e, _, rfl, .inl rfl⟩
    · cases h

/-- What one step can do when it does not stop: leave the engine as it is; one register write; the completion of a
decoded command or of an illegal word; hardware reset. -/
theorem step_next_cases {V : Variant} {e : Engine V} {hs : HostSide} {t : State} (h : step ⟨V, e, hs⟩ = .next t) :
    ∃ (e' : Engine V) (hs' : HostSide), t = ⟨V, e', hs'⟩ ∧
      ((e' = e ∧ State.turn ⟨V, e, hs⟩ ≠ .hardwareReset ∧ (State.turn ⟨V, e, hs⟩ = .engine → e.latch.busy = false)) ∨
       (∃ off x rest, State.turn ⟨V, e, hs⟩ = .host ∧ hs.program = .write off Config.busBits x :: rest ∧
          inWindow off = true ∧ admitted off Config.busBits = true ∧ e.latch.busy = false ∧
          e' = e.writeReg (regAt off) x) ∨
       (∃ i, State.turn ⟨V, e, hs⟩ = .engine ∧ e.latch.busy = true ∧ decodeWord e.latch.pend = .ok i ∧
          e' = e.finish (e.effect i)) ∨
       (∃ r, State.turn ⟨V, e, hs⟩ = .engine ∧ e.latch.busy = true ∧ decodeWord e.latch.pend = .error r ∧
          e' = e.raise .illegalCommand) ∨
       (State.turn ⟨V, e, hs⟩ = .hardwareReset ∧ e' = Engine.reset V)) := by
  unfold step at h
  cases ht : State.turn ⟨V, e, hs⟩ <;> rw [ht] at h
  · obtain ⟨e', hs', ht', he⟩ := hostStep_next h
    refine ⟨e', hs', ht', ?_⟩
    rcases he with he | ⟨off, x, rest, hp, hw, ha, hb, he⟩
    · exact .inl ⟨he, nofun, nofun⟩
    · exact .inr (.inl ⟨off, x, rest, rfl, hp, hw, ha, hb, he⟩)
  · simp only [moveOf, engineStep] at h
    split at h
    · rename_i hb
      split at h
      · rename_i i hd
        rw [show State.takeTurn ⟨V, e, hs⟩ = ⟨V, e, _⟩ from rfl, exec_mk] at h
        cases h
        exact ⟨_, _, rfl, .inr (.inr (.inl ⟨i, rfl, hb, hd, rfl⟩))⟩
      · rename_i r hd
        cases h
        exact ⟨_, _, rfl, .inr (.inr (.inr (.inl ⟨r, rfl, hb, hd, rfl⟩)))⟩
    · rename_i hb
      cases h
      exact ⟨_, _, rfl, .inl ⟨rfl, nofun, fun _ => by simpa using hb⟩⟩
  · cases h; exact ⟨_, _, rfl, .inr (.inr (.inr (.inr ⟨rfl, rfl⟩)))⟩

/-- A run of any machine takes its first step first. -/
theorem run_first (M : Host.Core) (n : Nat) (s t : M.State) (h : M.step s = .next t) : M.run (n + 1) s = M.run n t := by
  simp only [Host.Core.run, h]

/-- A run of this machine takes its first step first. -/
theorem core_run_next (n : Nat) (s t : State) (h : step s = .next t) :
    Host.Core.run Sys2Proof.core (n + 1) s = Host.Core.run Sys2Proof.core n t :=
  run_first Sys2Proof.core n s t h

/-- A register write touches the staging registers and the command latch only (R69, R72). -/
theorem Engine.writeReg_groups {V : Variant} (e : Engine V) (r : Reg) (x : BitVec 32) :
    (e.writeReg r x).params = e.params ∧ (e.writeReg r x).hash = e.hash ∧ (e.writeReg r x).scratch = e.scratch ∧
    (e.writeReg r x).output = e.output ∧ (e.writeReg r x).latch.err = e.latch.err ∧
    (e.writeReg r x).latch.sticky = e.latch.sticky := by
  cases r <;> exact ⟨rfl, rfl, rfl, rfl, rfl, rfl⟩

/-- R242: a command's effect fails only with a code the spec allows it, which is not success. -/
theorem Engine.effect_error {V : Variant} {i : Instr} {e : Engine V} {E : ErrCode} (h : e.effect i = .error E) :
    E ≠ .ok ∧ E ∈ mayEndWith i := by
  cases i <;> simp only [Engine.effect] at h
  case configure =>
    unfold Engine.configure at h
    split at h
    · rename_i E' hE; cases h; rw [configureChecks_error hE]; decide
    · cases h
  case absorb n =>
    unfold Engine.whenConfigured Engine.absorb at h
    split at h
    · split at h <;> cases h; simp [mayEndWith]
    · cases h; simp [mayEndWith]
  all_goals
    unfold Engine.whenConfigured at h
    split at h <;> cases h; simp [mayEndWith]

/-- A command's own effect leaves the command latch alone; its completion writes it (R44). -/
theorem Engine.effect_latch {V : Variant} {i : Instr} {e e' : Engine V} (h : e.effect i = .ok e') : e'.latch = e.latch := by
  rcases Engine.effect_ok_cases h with ⟨-, d, k, -, rfl⟩ | ⟨-, ⟨b, -, rfl⟩ | ⟨n, -, -, rfl⟩ | ⟨-, rfl⟩ | ⟨-, rfl⟩ | ⟨-, rfl⟩ | ⟨-, rfl⟩⟩ <;> simp

/-! Pointwise readings of the array operations. -/

@[simp] theorem storeReg_getElem {n : Nat} (bs : Vector Byte n) (j : Nat) (r : BitVec 32) (i : Nat) (h : i < n) :
    (storeReg bs j r)[i] = if i / 4 = j then lane r (i % 4) else bs[i] := by
  simp [storeReg]

@[simp] theorem retain_getElem {a : Nat} (b n : Nat) (bs : Vector Byte a) (i : Nat) (h : i < b) :
    (retain b n bs)[i] = if i < n then bs[i]?.getD 0 else 0 := by
  simp [retain]

@[simp] theorem primedBuffer_getElem {V : Variant} (p : Params V) (i : Nat) (h : i < V.blockBytes) :
    (primedBuffer p)[i] = if i < p.kl then p.keyr[i]?.getD 0 else 0 := by
  simp [primedBuffer]

@[simp] theorem messageWords_getElem {V : Variant} (block : Vector Byte V.blockBytes) (i : Nat) (h : i < 16) :
    (messageWords block)[i] = leWord V block (i * V.wordBytes) := by
  simp [messageWords]

@[simp] theorem foldOutput_getElem {V : Variant} (h : Vector (Word V) 8) (v : Vector (Word V) 16) (i : Nat) (hi : i < 8) :
    (foldOutput h v)[i] = h[i] ^^^ v[i] ^^^ v[i + 8] := by
  simp [foldOutput]

@[simp] theorem blockAt_getElem (V : Variant) (msg : List Byte) (i k : Nat) (h : k < V.blockBytes) :
    (blockAt V msg i)[k] = msg.getD (i * V.blockBytes + k) 0 := by
  simp [blockAt]

/-- R240: no error code is a reserved one. -/
theorem ErrCode.code_le (E : ErrCode) : E.code.toNat ≤ 4 := by cases E <;> decide

/-- R240: only success has the code 0. -/
theorem ErrCode.code_eq_zero (E : ErrCode) : E.code = 0 ↔ E = .ok := by cases E <;> decide

end Sys2Proof.Machine
end

