-- ==== Sys2Proof/Laws/Bits.lean ====
section
/-!
SUPPORT. Fields, byte lanes and little-endian bytes as numbers: each is a quotient and a remainder of the word's value.
-/

namespace Sys2Proof

/-- R90: the fields of a command word as numbers. -/
theorem fields_toNat (c : BitVec 32) :
    (fieldOp c).toNat = c.toNat % 2 ^ 4 ∧ (fieldZ1 c).toNat = c.toNat / 2 ^ 4 % 2 ^ 4 ∧
    (fieldImm8 c).toNat = c.toNat / 2 ^ 8 % 2 ^ 8 ∧ (fieldLen c).toNat = c.toNat / 2 ^ 16 % 2 ^ 8 ∧
    (fieldZ2 c).toNat = c.toNat / 2 ^ 24 := by
  have := c.isLt
  refine ⟨?_, ?_, ?_, ?_, ?_⟩ <;>
    simp [fieldOp, fieldZ1, fieldImm8, fieldLen, fieldZ2, BitVec.extractLsb'_toNat, Nat.shiftRight_eq_div_pow]
  omega

/-- R65: the four lanes of a word, put together again, are the word. -/
theorem lanes_append (c : BitVec 32) :
    c.extractLsb' 24 8 ++ c.extractLsb' 16 8 ++ c.extractLsb' 8 8 ++ c.extractLsb' 0 8 = c := by
  ext k hk
  simp only [BitVec.getElem_append, BitVec.getElem_extractLsb']
  grind

/-- The value of two words side by side. -/
theorem toNat_append_eq {a b : Nat} (x : BitVec a) (y : BitVec b) : (x ++ y).toNat = x.toNat * 2 ^ b + y.toNat := by
  rw [BitVec.toNat_append, Nat.shiftLeft_eq, Nat.mul_comm, Nat.two_pow_add_eq_or_of_lt y.isLt, Nat.mul_comm]

namespace Machine

/-- R65: byte lane `k` is the `k`-th base-256 digit. -/
theorem lane_eq (r : BitVec 32) (k : Nat) : lane r k = BitVec.ofNat 8 (r.toNat / 256 ^ k) := by
  apply BitVec.eq_of_toNat_eq
  simp [lane, BitVec.extractLsb'_toNat, Nat.shiftRight_eq_div_pow, Nat.pow_mul]

/-- R126: byte `k` of a word is its `k`-th base-256 digit. -/
theorem leByte_eq {V : Variant} (x : Word V) (k : Nat) : leByte x k = BitVec.ofNat 8 (x.toNat / 256 ^ k) := by
  apply BitVec.eq_of_toNat_eq
  simp [leByte, BitVec.extractLsb'_toNat, Nat.shiftRight_eq_div_pow, Nat.pow_mul]

/-- R32: the fields of CFG as numbers. -/
theorem cfg_fields (c : BitVec 32) :
    cfgDlen c = c.toNat % 2 ^ 10 ∧ (cfgDlenInBits c = true ↔ c.toNat / 2 ^ 10 % 2 = 1) ∧
    cfgKeylen c = c.toNat / 2 ^ 16 % 2 ^ 7 ∧ (cfgSaltEn c = true ↔ c.toNat / 2 ^ 24 % 2 = 1) ∧
    (cfgPersEn c = true ↔ c.toNat / 2 ^ 25 % 2 = 1) := by
  refine ⟨?_, ?_, ?_, ?_, ?_⟩ <;>
    simp [cfgDlen, cfgDlenInBits, cfgKeylen, cfgSaltEn, cfgPersEn, BitVec.extractLsb'_toNat,
      Nat.shiftRight_eq_div_pow, BitVec.getLsbD, Nat.testBit_eq_decide_div_mod_eq]

/-- R33: the fields of CFGLEN as numbers. -/
theorem cfglen_fields (c : BitVec 32) : cfglenSalt c = c.toNat % 2 ^ 8 ∧ cfglenPers c = c.toNat / 2 ^ 8 % 2 ^ 8 := by
  constructor <;> simp [cfglenSalt, cfglenPers, BitVec.extractLsb'_toNat, Nat.shiftRight_eq_div_pow]

/-- R146: the reserved bits of CFG and CFGLEN, on their numbers. -/
theorem cfgReservedSet_false_iff (c cl : BitVec 32) : cfgReservedSet c cl = false ↔
    c.toNat / 2 ^ 11 % 2 ^ 5 = 0 ∧ c.toNat / 2 ^ 23 % 2 = 0 ∧ c.toNat / 2 ^ 26 = 0 ∧ cl.toNat / 2 ^ 16 = 0 := by
  have := c.isLt
  have := cl.isLt
  simp only [cfgReservedSet, Bool.or_eq_false_iff, bne_eq_false_iff_eq, BitVec.getLsbD,
    Nat.testBit_eq_decide_div_mod_eq, decide_eq_false_iff_not, ← BitVec.toNat_inj]
  simp [BitVec.extractLsb'_toNat, Nat.shiftRight_eq_div_pow]
  omega

/-- The sizes of a variant that proofs need of both at once. -/
theorem variant_sizes (V : Variant) : 0 < V.blockBytes ∧ V.blockBytes ≤ 128 ∧ V.maxDigest ≤ 64 ∧
    V.maxDigest = 8 * V.wordBytes ∧ 0 < V.wordBytes ∧ V.maxDigest ≤ V.blockBytes ∧ V.saltBytes ≤ 16 := by
  cases V <;> decide

/-- R127, R8: the counter is two words wide, and a block length fits a word. -/
theorem counter_sizes (V : Variant) : V.counterBits = 2 * V.wordBits ∧ V.blockBytes < 2 ^ V.wordBits ∧
    256 ^ V.wordBytes = 2 ^ V.wordBits := by
  cases V <;> decide

/-- R125: byte `i` of a little-endian number is its `i`-th base-256 digit. -/
theorem leValue_digit (bs : List Byte) (i : Nat) : leValue bs / 256 ^ i % 256 = (bs.getD i 0).toNat := by
  induction bs generalizing i with
  | nil => simp [leValue]
  | cons b rest ih =>
    have := b.isLt
    cases i with
    | zero => simp only [leValue, List.getD_cons_zero]; omega
    | succ i =>
      rw [List.getD_cons_succ, ← ih i, leValue, show 256 ^ (i + 1) = 256 * 256 ^ i by rw [Nat.pow_succ, Nat.mul_comm],
        ← Nat.div_div_eq_div_mul, show (b.toNat + 256 * leValue rest) / 256 = leValue rest by omega]

/-- R125: byte `i` of the word of `wb` bytes from index `j` on is byte `j + i` of the array. -/
theorem leWord_digit (V : Variant) {n : Nat} (bs : Vector Byte n) (j i : Nat) (hi : i < V.wordBytes) (h : j + i < n) :
    (leWord V bs j).toNat / 256 ^ i % 256 = bs[j + i].toNat := by
  have hp : 256 ^ (i + 1) ∣ 2 ^ V.wordBits := by
    rw [← (counter_sizes V).2.2]; exact Nat.pow_dvd_pow _ hi
  have hd : leValue ((bs.toList.drop j).take V.wordBytes) / 256 ^ i % 256 = bs[j + i].toNat := by
    rw [leValue_digit]; simp [List.getElem?_drop, hi, h]
  rw [← hd, leWord, BitVec.toNat_ofNat, ← Nat.mod_mul_right_div_self, ← Nat.mod_mul_right_div_self, ← Nat.pow_succ,
    Nat.mod_mod_of_dvd _ hp]

end Machine

end Sys2Proof
end

