-- ==== Sys2Proof/Laws/Absorb.lean ====
section
/-!
SUPPORT. What absorbing a string does: the cursor and the counter for one byte, a string that fits into the buffer, and
a string in two parts.
-/

namespace Sys2Proof.Machine

/-- R202: one byte advances the counter by a block exactly when the buffer is full. -/
theorem Engine.absorbByte_t {V : Variant} (e : Engine V) (b : Byte) :
    (e.absorbByte b).hash.t = if e.hash.cur = V.blockBytes then ctrAdd e.hash.t V.blockBytes else e.hash.t := by
  unfold Engine.absorbByte; split <;> simp

/-- R202, R203: one byte moves the cursor on, from 0 when the buffer was full. -/
theorem Engine.absorbByte_cur {V : Variant} (e : Engine V) (b : Byte) :
    (e.absorbByte b).hash.cur = if e.hash.cur = V.blockBytes then 1 else e.hash.cur + 1 := by
  unfold Engine.absorbByte; split <;> simp

/-- R206: a string in two parts. -/
theorem Engine.absorbBytes_append {V : Variant} (e : Engine V) (a b : List Byte) :
    e.absorbBytes (a ++ b) = (e.absorbBytes a).absorbBytes b := by
  simp [Engine.absorbBytes]

/-- R203: a string that fits is copied to the cursor, and nothing else changes. -/
theorem Engine.absorbBytes_fits {V : Variant} (bs : List Byte) : ∀ (e : Engine V), e.hash.cur + bs.length ≤ V.blockBytes →
    ∃ buf : Vector Byte V.blockBytes,
      e.absorbBytes bs = { e with hash := { e.hash with buf := buf, cur := e.hash.cur + bs.length } } ∧
      ∀ (i : Nat) (_ : i < V.blockBytes), buf[i] =
        if e.hash.cur ≤ i ∧ i < e.hash.cur + bs.length then bs.getD (i - e.hash.cur) 0 else e.hash.buf[i] := by
  induction bs with
  | nil => exact fun e _ => ⟨e.hash.buf, rfl, fun i hi => by simp⟩
  | cons b bs ih =>
    intro e h
    simp only [List.length_cons] at h
    obtain ⟨buf, h1, h2⟩ := ih (e.storeByte b) (by simp; omega)
    refine ⟨buf, ?_, fun i hi => ?_⟩
    · rw [Engine.absorbBytes_cons, Engine.absorbByte_room _ _ (by omega), h1]
      simp [Engine.storeByte]; omega
    · replace h2 : buf[i] = if e.hash.cur + 1 ≤ i ∧ i < e.hash.cur + 1 + bs.length then bs.getD (i - (e.hash.cur + 1)) 0
          else (e.hash.buf.setIfInBounds e.hash.cur b)[i] := h2 i hi
      rw [h2, List.length_cons]
      by_cases hx : e.hash.cur = i
      · subst hx
        simp
      · by_cases hy : e.hash.cur ≤ i ∧ i < e.hash.cur + (bs.length + 1)
        · rw [if_pos (by omega), if_pos hy, show i - e.hash.cur = (i - (e.hash.cur + 1)) + 1 by omega]
          simp
        · rw [if_neg (by omega), if_neg hy]
          simp [hx]

end Sys2Proof.Machine
end

