-- ==== Sys2Proof/Laws/PerInstr.lean ====
section
/-!
SUPPORT. Statements made for every command as syntax: the family EncodedFields, one lemma per constructor.
-/

namespace Sys2Proof

/-- R90: the five fields of a word put together from them, from bit 31 down. -/
theorem fields_append (z2 l im : BitVec 8) (z1 op : BitVec 4) :
    fieldOp (z2 ++ l ++ im ++ z1 ++ op) = op ∧ fieldZ1 (z2 ++ l ++ im ++ z1 ++ op) = z1 ∧
    fieldImm8 (z2 ++ l ++ im ++ z1 ++ op) = im ∧ fieldLen (z2 ++ l ++ im ++ z1 ++ op) = l ∧
    fieldZ2 (z2 ++ l ++ im ++ z1 ++ op) = z2 := by
  refine ⟨?_, ?_, ?_, ?_, ?_⟩ <;>
  · ext i hi
    simp only [fieldOp, fieldZ1, fieldImm8, fieldLen, fieldZ2, BitVec.getElem_extractLsb', BitVec.getLsbD_append]
    grind

/-- R90, R94: the fields of a command's word. -/
theorem encode_fields (i : Instr) :
    fieldOp (encode i) = i.opcode ∧ fieldZ1 (encode i) = 0 ∧ fieldImm8 (encode i) = i.imm8 ∧
    fieldLen (encode i) = i.len ∧ fieldZ2 (encode i) = 0 :=
  fields_append 0 i.len i.imm8 0 i.opcode

namespace Laws.EncodedFields

/-- R90 to R94: a command's word holds its opcode, one of 1 to 7; Z1 and Z2 are 0; IMM8 is 0 but for ABSORB_BYTE, and
LEN is 0 but for ABSORB. -/
def Statement (i : Instr) : Prop :=
  (1 ≤ (fieldOp (encode i)).toNat ∧ (fieldOp (encode i)).toNat ≤ 7) ∧ fieldZ1 (encode i) = 0 ∧ fieldZ2 (encode i) = 0 ∧
  (fieldOp (encode i) ≠ 2 → fieldImm8 (encode i) = 0) ∧ (fieldOp (encode i) ≠ 3 → fieldLen (encode i) = 0)

/-- What is left to show of one command once its fields are known. -/
theorem of_fields (i : Instr) (h : (1 ≤ i.opcode.toNat ∧ i.opcode.toNat ≤ 7) ∧ (i.opcode ≠ 2 → i.imm8 = 0) ∧
    (i.opcode ≠ 3 → i.len = 0)) : Statement i := by
  obtain ⟨hop, hz1, himm, hlen, hz2⟩ := encode_fields i
  unfold Statement
  rw [hop, hz1, himm, hlen, hz2]
  exact ⟨h.1, rfl, rfl, h.2.1, h.2.2⟩

theorem configure : Statement .configure := of_fields _ (by decide)
theorem absorbByte (b : Byte) : Statement (.absorbByte b) :=
  of_fields _ ⟨by simp [Instr.opcode], fun h => absurd rfl h, fun _ => rfl⟩
theorem absorb (n : Nat) : Statement (.absorb n) :=
  of_fields _ ⟨by simp [Instr.opcode], fun _ => rfl, fun h => absurd rfl h⟩
theorem finalize : Statement .finalize := of_fields _ (by decide)
theorem reset : Statement .reset := of_fields _ (by decide)
theorem clearKey : Statement .clearKey := of_fields _ (by decide)
theorem clearSalt : Statement .clearSalt := of_fields _ (by decide)

end Laws.EncodedFields

end Sys2Proof
end

