-- ==== Sys2Proof/Tests/Slice0.lean ====
section
/-!
SUPPORT. The model's own tests: ill-formed commands refused, decoding of words written out from the spec, the spec's
test vectors (95_test_vectors.md), one step of each command, and for every obligation with hypotheses a witness that
meets them. Every expected value comes from the spec; its row is named beside it.
-/

namespace Sys2Proof.Tests

-- one theorem after another: side by side, their kernel evaluations ask for more threads than the memory limit allows
set_option Elab.async false

open Sys2Proof Sys2Proof.Machine

/-! ## Helpers -/

/-- The `n` bytes `a, a+1, …`. -/
def bytesFrom (a n : Nat) : List Byte := (List.range n).map fun i => BitVec.ofNat 8 (a + i)

/-- A byte string, zero-padded. -/
def padded (n : Nat) (bs : List Byte) : Vector Byte n := Vector.ofFn fun i => bs.getD i.val 0

/-- The parameters of an engine with a digest length, a key, a salt and a personalization. -/
def paramsOf (V : Variant) (dl : Nat) (key : List Byte) (salt pers : Option (List Byte)) : Params V where
  configured := true
  dl    := dl
  kl    := key.length
  keyr  := padded _ key
  saltp := salt.isSome
  saltr := padded _ (salt.getD [])
  persp := pers.isSome
  persr := padded _ (pers.getD [])

/-- An engine right after a CONFIGURE with those parameters, its staging registers zero. -/
def started (V : Variant) (dl : Nat) (key : List Byte) (salt pers : Option (List Byte)) : Engine V :=
  Engine.reinit { Engine.reset V with params := paramsOf V dl key salt pers }

/-- BLAKE2s, 32-byte digest, nothing else: EMPTY. -/
def plain : Engine .blake2s := started .blake2s 32 [] none none

/-- BLAKE2s, 32-byte digest, the key `00..1f`: BUFFERING with the key block primed. -/
def keyed : Engine .blake2s := started .blake2s 32 (bytesFrom 0 32) none none

/-- BLAKE2s, 32-byte digest, the salt `0102030405060708`. -/
def salted : Engine .blake2s := started .blake2s 32 [] (some (bytesFrom 1 8)) none

/-- The engine with other buffered bytes, a cursor after them and a counter. -/
def holding {V : Variant} (e : Engine V) (bs : List Byte) (t : Counter V) : Engine V :=
  { e with hash := { e.hash with buf := padded _ bs, cur := bs.length, t := t } }

/-- The engine with other bytes in INBUF. -/
def fed {V : Variant} (e : Engine V) (bs : List Byte) : Engine V :=
  { e with staging := { e.staging with inbuf := padded _ bs } }

/-- The engine with other CFG and CFGLEN. -/
def asked {V : Variant} (e : Engine V) (cfg cfglen : BitVec 32) : Engine V :=
  { e with staging := { e.staging with cfg := cfg, cfglen := cfglen } }

/-- A host with this program, this schedule and nothing observed. -/
def hostOf (program : List HostOp) (schedule : List Turn) : HostSide := ⟨program, schedule, [], 0, false⟩

/-- The engine with a host that has nothing to do. -/
def alone {V : Variant} (e : Engine V) : State := ⟨V, e, hostOf [] []⟩

/-- The engine with the word `c` latched and busy, and the next turn its own. -/
def pending {V : Variant} (e : Engine V) (c : BitVec 32) : State := ⟨V, e.latchCommand c, hostOf [] []⟩

/-- Something of the next state, where there is one. -/
def after {α : Type} (f : State → α) : Host.Outcome State Fault Refusal → Option α
  | .next s => some (f s)
  | .fault _ => none
  | .refused _ => none

/-- STATUS. -/
def statusOf (s : State) : BitVec 32 := s.engine.status

/-- The first `n` DOUT registers. -/
def digestOf (n : Nat) (s : State) : List (BitVec 32) := (List.range n).map fun j => packedReg s.engine.output.dout j

/-- The reason of a fault. -/
def faultOf : Host.Outcome State Fault Refusal → Option Fault
  | .next _ => none
  | .fault F => some F
  | .refused _ => none

/-- The reason a word is refused. -/
def refusalOf (c : BitVec 32) : Option DecodeError :=
  match decodeWord c with
  | .ok _ => none
  | .error r => some r

/-! ## Well-formedness -/

/-- R93: 256 does not fit LEN. -/
theorem test_absorb_256_is_ill_formed : (Instr.absorb 256).wellFormed = false := by decide
theorem test_absorb_255_is_well_formed : (Instr.absorb 255).wellFormed = true := by decide
/-- R101: the line `ABSORB 3` is the write of 0x00030003 to CMD, then WAIT. -/
theorem test_absorb_line : commandOps (.absorb 3) = some [.write 0x00C 32 0x00030003, .wait] := by decide
/-- R93: 256 has no word, so the line has no expansion (assumption 16). -/
theorem test_absorb_256_has_no_line : commandOps (.absorb 256) = none := by decide

/-! ## Decoding, from words written out by hand: Z2 LEN IMM8 Z1 OP (R90, R97; rows X5 to X12 for the refusals) -/

theorem test_decode_configure :
    decodeWord (0b00000000#8 ++ 0b00000000#8 ++ 0b00000000#8 ++ 0b0000#4 ++ 0b0001#4) = .ok .configure := by decide
theorem test_decode_absorb_byte :
    decodeWord (0b00000000#8 ++ 0b00000000#8 ++ 0b01100001#8 ++ 0b0000#4 ++ 0b0010#4) = .ok (.absorbByte 0x61) := by decide
theorem test_decode_absorb :
    decodeWord (0b00000000#8 ++ 0b01000000#8 ++ 0b00000000#8 ++ 0b0000#4 ++ 0b0011#4) = .ok (.absorb 64) := by decide
theorem test_decode_finalize :
    decodeWord (0b00000000#8 ++ 0b00000000#8 ++ 0b00000000#8 ++ 0b0000#4 ++ 0b0100#4) = .ok .finalize := by decide
theorem test_decode_reset :
    decodeWord (0b00000000#8 ++ 0b00000000#8 ++ 0b00000000#8 ++ 0b0000#4 ++ 0b0101#4) = .ok .reset := by decide
theorem test_decode_clear_key :
    decodeWord (0b00000000#8 ++ 0b00000000#8 ++ 0b00000000#8 ++ 0b0000#4 ++ 0b0110#4) = .ok .clearKey := by decide
theorem test_decode_clear_salt :
    decodeWord (0b00000000#8 ++ 0b00000000#8 ++ 0b00000000#8 ++ 0b0000#4 ++ 0b0111#4) = .ok .clearSalt := by decide
theorem test_decode_table_word : decodeTableWord 32 0x00006102 = some (.absorbByte 0x61) := by decide
/-- The low bytes of a command word come first (R65). -/
theorem test_decode_bytes : decodeBytes [0x02, 0x61, 0x00, 0x00, 0xAA] = .ok (.absorbByte 0x61, [0xAA]) := by decide
theorem test_decode_three_bytes : decodeBytes [0x04, 0x00, 0x00] = .error .truncated := by decide
theorem test_refuse_opcodes : refusalOf 0x00000000 = some .reservedOpcode ∧ refusalOf 0x00000008 = some .reservedOpcode := by decide
theorem test_refuse_z1_z2 : refusalOf 0x00000013 = some .reservedField ∧ refusalOf 0x01000005 = some .reservedField := by decide
theorem test_refuse_imm8_len : refusalOf 0x00000104 = some .unusedImm8 ∧ refusalOf 0x00016102 = some .unusedLen := by decide

/-! ## Words, the counter and G (95_test_vectors.md 2.1 and 2.2) -/

/-- W6, W7, W9 -/
theorem test_rotr : rotr (V := .blake2s) 0x12345678 8 = 0x78123456 ∧ rotr (V := .blake2s) 0x80000001 7 = 0x03000000 ∧
    rotr (V := .blake2b) 1 63 = 2 := by decide
/-- W11, W13 -/
theorem test_leWord : leWord .blake2s (padded 4 [0x61, 0x62, 0x63]) 0 = 0x00636261 ∧
    leWord .blake2b (padded 8 (bytesFrom 0 8)) 0 = 0x0706050403020100 := by decide +kernel
/-- W12 -/
theorem test_leByte : (List.range 4).map (leByte (V := .blake2s) 0x6B08E647) = [0x47, 0xE6, 0x08, 0x6B] := by decide
/-- W14, W17 -/
theorem test_ctrAdd : ctrAdd (V := .blake2s) 0x00000000FFFFFFC0 64 = 0x0000000100000000 ∧
    ctrAdd (V := .blake2s) 0xFFFFFFFFFFFFFFC0 64 = 0 := by decide
/-- W18 -/
theorem test_ctrAdd_wide : ctrAdd (V := .blake2b) 0x0000000000000000FFFFFFFFFFFFFF80 128 =
    0x00000000000000010000000000000000 := by decide
/-- G1 -/
theorem test_mix_32 : mix (V := .blake2s) 1 2 3 4 5 6 = (0x001000CE, 0x879C3839, 0xCE0C1C03, 0xCE001C00) := by decide +kernel
/-- G5 -/
theorem test_mix_64 : mix (V := .blake2b) 1 2 3 4 5 6 =
    (0x0000010000000C0E, 0x181C021802181806, 0x0C0E000C010C0003, 0x0C0E0000010C0000) := by decide +kernel

/-! ## The parameter block and the compression (95_test_vectors.md 2.3 and 2.4) -/

/-- PB2 -/
theorem test_paramInit_keyed : (paramInit (paramsOf .blake2s 32 (bytesFrom 0 32) none none))[0] = 0x6B08C647 := by decide +kernel
/-- PB6 -/
theorem test_paramInit_salt_pers :
    (paramInit (paramsOf .blake2s 32 [] (some (bytesFrom 1 8)) (some (bytesFrom 0x11 8)))).toList.drop 4 =
      [0x550D507E, 0x93026E89, 0x0B90CBBA, 0x43F7DB0C] := by decide +kernel
/-- PB9 -/
theorem test_paramInit_64 : paramInit (paramsOf .blake2b 64 [] (some (bytesFrom 0 16)) (some (bytesFrom 0x10 16))) =
    #v[0x6A09E667F2BDC948, 0xBB67AE8584CAA73B, 0x3C6EF372FE94F82B, 0xA54FF53A5F1D36F1,
       0x5608577BAEE483D1, 0x940B658020346517, 0x0895CCBFE853AC7B, 0x44FED00508643861] := by decide +kernel
/-- C4: the counter's high word is not zero, and the block is not the last. -/
theorem test_compress_high_counter :
    compress (paramInit (paramsOf .blake2s 32 [] none none)) (zeros 64) 0x0000000100000000 false =
      #v[0x59EEB13A, 0xB6843D0B, 0xA311973A, 0x0B4E4C44, 0x2DBC4FE3, 0xF7F3B7D2, 0x301B7CDD, 0x683606E7] := by
  decide +kernel
/-- C5: 64-bit words, twelve rounds. -/
theorem test_compress_64 :
    compress (paramInit (paramsOf .blake2b 64 [] none none)) (padded 128 [0x61, 0x62, 0x63]) 3 true =
      #v[0x0D4D1C983FA580BA, 0xE9F6129FB697276A, 0xB7C45A68142F214C, 0xD1A2FFDB6FBB124B,
         0x2D79AB2A39C5877D, 0x95CC3345DED552C2, 0x5A92F1DBA88AD318, 0x239900D4ED8623B9] := by decide +kernel

/-! ## One step of each command (95_test_vectors.md 2.5 to 2.8) -/

/-- S1 -/
theorem test_configure : after (fun s => (statusOf s, s.engine.paramReg)) (step (pending (asked (Engine.reset .blake2s) 0x20 0) 1)) =
    some (0x00000004, 0x00000020) := by decide +kernel
/-- X21: an old engine is kept. -/
theorem test_configure_bad : after statusOf (step (pending (asked keyed 0x21 0) 1)) = some 0x0001401A := by decide +kernel
/-- S2 -/
theorem test_absorb_byte : after statusOf (step (pending plain 0x00006102)) = some 0x00000108 := by decide +kernel
/-- K-S2: the primed key block is compressed with the counter at 0x40 first. -/
theorem test_absorb_byte_full : after (fun s => (statusOf s, counterReg s.engine.hash.t 0)) (step (pending keyed 0x00000002)) =
    some (0x00010108, 0x40) := by decide +kernel
/-- X22 -/
theorem test_absorb : after statusOf (step (pending (fed plain (bytesFrom 0 64)) 0x00400003)) = some 0x00004008 := by decide +kernel
/-- X4 -/
theorem test_absorb_too_long : after statusOf (step (pending plain 0x00410003)) = some 0x00000046 := by decide +kernel
/-- K2 -/
theorem test_finalize : after (digestOf 8) (step (pending (holding plain [0x61, 0x62, 0x63] 0) 4)) =
    some [0x8C5E8C50, 0xE2147C32, 0xA32BA7E1, 0x2F45EB4E, 0x208B4537, 0x293AD69E, 0x4C9B994D, 0x82596786] := by decide +kernel
/-- K-S4: the key block is the last block; the engine is primed again. -/
theorem test_finalize_keyed : after (fun s => (statusOf s, digestOf 1 s)) (step (pending keyed 4)) =
    some (0x00014008, [0x7D99A848]) := by decide +kernel
/-- S4 -/
theorem test_reset : after statusOf (step (pending (holding plain [0x61] 0) 5)) = some 0x00000004 := by decide +kernel
/-- X1, of RESET (R96) -/
theorem test_reset_unconfigured : after statusOf (step (pending (Engine.reset .blake2s) 5)) = some 0x00000032 := by decide +kernel
/-- CK4 -/
theorem test_clear_key_unkeyed : after (fun s => (statusOf s, s.engine.staging.keys.toList.head?))
    (step (pending { plain with staging := { plain.staging with keys := padded 64 [0x41] } } 6)) =
      some (0x00000004, some 0) := by decide +kernel
/-- CK1: the chain value stays, the buffer goes. -/
theorem test_clear_key : after (fun s => (statusOf s, (s.engine.hash.h.toList.map (·.toNat))[0]?, s.engine.hash.buf.toList[1]?)) (step (pending keyed 6)) =
    some (0x00014008, some 0x6B08C647, some 0) := by decide +kernel
/-- CS1: the chain value stays salted. -/
theorem test_clear_salt : after (fun s => (statusOf s, (s.engine.hash.h.toList.map (·.toNat))[4]?, s.engine.params.saltr.toList[0]?)) (step (pending salted 7)) =
    some (0x00020004, some 0x550D507E, some 0) := by decide +kernel
/-- X12: an illegal word comes before NOT_CONFIGURED. -/
theorem test_illegal_word : after statusOf (step (pending (Engine.reset .blake2s) 0x00000104)) = some 0x00000022 := by decide +kernel
/-- A table word runs as the first command after reset (X1). -/
theorem test_first_word : after statusOf (step (State.reset.withFetchWord 32 0x00000004)) = some 0x00000032 := by decide +kernel

/-! ## The window -/

/-- R31: the ID constants. -/
theorem test_id : idReg .blake2s = 0x0A204020 ∧ idReg .blake2b = 0x0C408040 := by decide
/-- R66: KEY0 of the key `00..1f` (95_test_vectors.md 1.1). -/
theorem test_packed : packedReg (padded 64 (bytesFrom 0 32)) 0 = 0x03020100 ∧ packedReg (padded 64 (bytesFrom 0 32)) 7 = 0x1F1E1D1C := by
  decide +kernel
/-- R102: LOADIN "abc" is one write of 0x00636261 to INBUF0. -/
theorem test_loadIn : loadIn [0x61, 0x62, 0x63] = some [.write 0x100 32 0x00636261] := by decide +kernel
/-- R64 -/
theorem test_bus_fault : faultOf (step ⟨.blake2s, plain, hostOf [.read 0x012 32] []⟩) = some (.busFault 0x012 32) := by decide +kernel
/-- R71 -/
theorem test_write_while_busy : faultOf (step ⟨.blake2s, plain.latchCommand 4, hostOf [.write 0x004 32 0] [.host]⟩) =
    some (.hostWriteWhileBusy 0x004) := by decide +kernel

/-- R284: a run waits for a STATUS read with BUSY = 0 after its last CMD write, and ends with it. -/
theorem test_run_end :
    after State.runEnded (step ⟨.blake2s, plain, hostOf [.write 0x00C 32 4] []⟩) = some false ∧
    after State.observation (step ⟨.blake2s, plain, { hostOf [.read 0x010 32] [] with awaiting := true }⟩) =
      some (some [0x00000004]) := by decide +kernel
/-- R284: a read of another register does not end it, and a run that faults has no observation. -/
theorem test_run_goes_on :
    after State.runEnded (step ⟨.blake2s, plain, { hostOf [.read 0x014 32] [] with awaiting := true }⟩) = some false ∧
    observationOf (step ⟨.blake2s, plain, hostOf [.read 0x012 32] []⟩) = none := by decide +kernel

/-! ## Witnesses: for each obligation with hypotheses, states and operands that meet them together, clause by clause -/

/-- The step of an engine with a latched command. -/
theorem step_pending {V : Variant} (e : Engine V) (c : BitVec 32) (i : Instr) (h : decodeWord c = .ok i) :
    step (pending e c) = .next ⟨V, (e.latchCommand c).finish ((e.latchCommand c).effect i), hostOf [] []⟩ := by
  have hb : (pending e c).takeTurn.engine.latch.busy = true := rfl
  have hd : decodeWord (pending e c).takeTurn.engine.latch.pend = .ok i := h
  show engineStep (pending e c).takeTurn = _
  unfold engineStep
  rw [if_pos hb, hd]
  exact exec_mk i V (e.latchCommand c) (hostOf [] [])

/-- The step of an engine with a latched word that is no command. -/
theorem step_pending_illegal {V : Variant} (e : Engine V) (c : BitVec 32) (r : DecodeError) (h : decodeWord c = .error r) :
    step (pending e c) = .next ⟨V, (e.latchCommand c).raise .illegalCommand, hostOf [] []⟩ := by
  have hb : (pending e c).takeTurn.engine.latch.busy = true := rfl
  have hd : decodeWord (pending e c).takeTurn.engine.latch.pend = .error r := h
  show engineStep (pending e c).takeTurn = _
  unfold engineStep
  rw [if_pos hb, hd]
  rfl

/-- The keyed engine, busy with a command, meets the invariants. -/
theorem keyed_inv (c : BitVec 32) : (keyed.latchCommand c).Inv where
  bufferTail := by show zeroFrom keyed.hash.buf keyed.hash.cur; decide +kernel
  cursor := by show keyed.hash.cur ≤ _; decide +kernel
  flag := rfl
  blank := nofun
  digestLength := fun _ => by show 1 ≤ keyed.params.dl; decide +kernel
  digestBound := by show keyed.params.dl ≤ _; decide +kernel
  keyBound := by show keyed.params.kl ≤ _; decide +kernel
  keyTail := by show zeroFrom keyed.params.keyr keyed.params.kl; decide +kernel
  absentSalt := fun _ => by show keyed.params.saltr = _; decide +kernel
  absentPers := fun _ => by show keyed.params.persr = _; decide +kernel
  outputLength := .inl rfl
  outputTail := by show zeroFrom keyed.output.dout keyed.output.outlen; decide +kernel
  errorCode := by show keyed.latch.err.toNat ≤ 4; decide +kernel
  errorSticky := fun h => absurd rfl h

/-! ### Reset, invariants and whole-machine rules -/

theorem witness_EveryStepKeepsInvariants : ∃ s t : State, s.engine.Inv ∧ step s = .next t :=
  ⟨pending keyed 2, _, keyed_inv 2, step_pending _ _ (.absorbByte 0) (by decide)⟩

theorem witness_HardwareResetBlanksTheEngine : ∃ (V : Variant) (e : Engine V) (hs : HostSide) (rest : List Turn) (r : Reg),
    e.latch.busy = true ∧ hs.schedule = .hardwareReset :: rest ∧ r ≠ .id :=
  ⟨.blake2b, (started .blake2b 64 [0x41] none none).latchCommand 4, hostOf [] [.hardwareReset, .host], [.host], .status, rfl, rfl,
    nofun⟩

theorem witness_StickySetByErrorsClearedByResetOnly :
    (∃ s t : State, step s = .next t ∧ s.turn ≠ .hardwareReset ∧ s.engine.latch.sticky = true) ∧
    (∃ s t : State, step s = .next t ∧ s.turn = .engine ∧ s.engine.latch.busy = true ∧ t.engine.latch.err ≠ 0) ∧
    (∃ s t : State, step s = .next t ∧ s.turn = .engine ∧ s.engine.latch.busy = true ∧ t.engine.latch.err = 0) :=
  ⟨⟨pending { plain with latch := ⟨false, 0, 1, true⟩ } 5, _, step_pending _ _ .reset (by decide), nofun, rfl⟩,
   ⟨pending (Engine.reset .blake2b) 4, _, step_pending _ _ .finalize (by decide), rfl, rfl, by decide +kernel⟩,
   ⟨pending plain 0x6102, _, step_pending _ _ (.absorbByte 0x61) (by decide), rfl, rfl, rfl⟩⟩

theorem witness_ConfiguredSetByConfigureClearedByResetOnly :
    (∃ s t : State, step s = .next t ∧ s.turn ≠ .hardwareReset ∧ s.engine.params.configured = true) ∧
    (∃ s t : State, step s = .next t ∧ s.engine.params.configured = false ∧ t.engine.params.configured = true) :=
  ⟨⟨pending plain 5, _, step_pending _ _ .reset (by decide), nofun, rfl⟩,
   ⟨pending (asked (Engine.reset .blake2s) 0x20 0) 1, _, step_pending _ _ .configure (by decide), rfl, by decide +kernel⟩⟩

/-- The completion of a CONFIGURE without error. -/
def configures (s t : State) : Prop :=
  s.turn = .engine ∧ s.engine.latch.busy = true ∧ s.engine.latch.pend = 0x00000001#32 ∧ t.engine.latch.err = 0

/-- One for each of the three ways the step may end: nothing changes, the key goes, the salt goes; and two more that
change nothing: a host's step after a CONFIGURE, whose word `pend` keeps, and a CONFIGURE that fails. -/
theorem witness_RetainedParametersChangeOnlyAsListed :
    (∃ s t : State, step s = .next t ∧ s.turn ≠ .hardwareReset ∧ ¬ configures s t ∧ s.engine.latch.pend = 0x00000005#32) ∧
    (∃ s t : State, step s = .next t ∧ s.turn ≠ .hardwareReset ∧ ¬ configures s t ∧ s.engine.latch.pend = 0x00000006#32 ∧
      s.engine.params.keyr.toList ≠ t.engine.params.keyr.toList) ∧
    (∃ s t : State, step s = .next t ∧ s.turn ≠ .hardwareReset ∧ ¬ configures s t ∧ s.engine.latch.pend = 0x00000007#32 ∧
      s.engine.params.saltr.toList ≠ t.engine.params.saltr.toList) ∧
    (∃ s t : State, step s = .next t ∧ s.turn = .host ∧ ¬ configures s t ∧ s.engine.latch.pend = 0x00000001#32) ∧
    (∃ s t : State, step s = .next t ∧ s.turn = .engine ∧ ¬ configures s t ∧ s.engine.latch.pend = 0x00000001#32) :=
  ⟨⟨pending plain 5, _, step_pending _ _ .reset (by decide), nofun, fun h => absurd h.2.2.1 (by decide), rfl⟩,
   ⟨pending keyed 6, _, step_pending _ _ .clearKey (by decide), nofun, fun h => absurd h.2.2.1 (by decide), rfl, by decide +kernel⟩,
   ⟨pending salted 7, _, step_pending _ _ .clearSalt (by decide), nofun, fun h => absurd h.2.2.1 (by decide), rfl,
     by decide +kernel⟩,
   ⟨⟨.blake2s, { plain with latch := ⟨false, 1, 0, false⟩ }, hostOf [.write 0x040 32 5] []⟩, _, rfl, rfl,
     fun h => absurd h.2.1 (by decide), rfl⟩,
   ⟨pending (asked keyed 0x21 0) 1, _, step_pending _ _ .configure (by decide), rfl,
     fun h => absurd h.2.2.2 (by decide +kernel), rfl⟩⟩

/-- The counter stays, takes a block, and goes back to 0. -/
theorem witness_CounterStaysAddsBlockOrZero :
    (∃ s t : State, step s = .next t ∧ s.engine.hash.t.toNat = 64 ∧ t.engine.hash.t.toNat = 64) ∧
    (∃ s t : State, step s = .next t ∧ s.engine.hash.t.toNat = 0 ∧ t.engine.hash.t.toNat = 64) ∧
    (∃ s t : State, step s = .next t ∧ s.engine.hash.t.toNat = 64 ∧ t.engine.hash.t.toNat = 0) :=
  ⟨⟨pending (holding plain [0x40] 64) 0x4102, _, step_pending _ _ (.absorbByte 0x41) (by decide), rfl, by decide +kernel⟩,
   ⟨pending keyed 2, _, step_pending _ _ (.absorbByte 0) (by decide), rfl, by decide +kernel⟩,
   ⟨pending (holding plain [0x40] 64) 5, _, step_pending _ _ .reset (by decide), rfl, by decide +kernel⟩⟩

/-- FINALIZE, CONFIGURE and hardware reset, each changing the output. -/
theorem witness_DigestOutputLifetime :
    (∃ s t : State, step s = .next t ∧ t.engine.output ≠ s.engine.output ∧ s.engine.latch.pend = 0x00000004#32) ∧
    (∃ s t : State, step s = .next t ∧ t.engine.output ≠ s.engine.output ∧ s.engine.latch.pend = 0x00000001#32) ∧
    (∃ s t : State, step s = .next t ∧ t.engine.output ≠ s.engine.output ∧ s.turn = .hardwareReset) :=
  ⟨⟨pending plain 4, _, step_pending _ _ .finalize (by decide), fun h => absurd (congrArg Output.outlen h) (by decide +kernel), rfl⟩,
   ⟨pending (asked { plain with output := ⟨zeros 64, 32⟩ } 0x20 0) 1, _, step_pending _ _ .configure (by decide),
     fun h => absurd (congrArg Output.outlen h) (by decide +kernel), rfl⟩,
   ⟨⟨.blake2s, { plain with output := ⟨zeros 64, 32⟩ }, hostOf [] [.hardwareReset]⟩, _, rfl,
     fun h => absurd (congrArg Output.outlen h) (by decide +kernel), rfl⟩⟩

theorem witness_CompletionLeavesStaging :
    (∃ s t : State, step s = .next t ∧ s.turn = .engine ∧ s.engine.latch.pend = 0x00000003#32) ∧
    (∃ s t : State, step s = .next t ∧ s.turn = .engine ∧ s.engine.latch.pend = 0x00000006#32) ∧
    (∃ s t : State, step s = .next t ∧ s.turn = .engine ∧ s.engine.latch.pend = 0x00000007#32) :=
  ⟨⟨pending plain 3, _, step_pending _ _ (.absorb 0) (by decide), rfl, rfl⟩,
   ⟨pending plain 6, _, step_pending _ _ .clearKey (by decide), rfl, rfl⟩,
   ⟨pending plain 7, _, step_pending _ _ .clearSalt (by decide), rfl, rfl⟩⟩

theorem witness_WorkingStateNeverReachesAnythingElse : ∃ (V : Variant) (a b : Engine V), a.SameButScratch b ∧ a ≠ b :=
  ⟨.blake2s, keyed, { keyed with scratch := ⟨Vector.replicate 16 1, Vector.replicate 16 2⟩ }, ⟨rfl, rfl, rfl, rfl, rfl⟩,
    fun h => absurd (congrArg (fun e => e.scratch.v.toList.map (·.toNat)) h) (by decide +kernel)⟩

/-! ### Command words -/

theorem witness_DecodeOfEncode : (Instr.absorb 255).wellFormed = true ∧ (Instr.absorb 0).wellFormed = true ∧
    (Instr.absorbByte 0xFF).wellFormed = true ∧ Instr.clearSalt.wellFormed = true := by decide

theorem witness_EncodeOfDecode : decodeWord 0x00FF0003#32 = .ok (.absorb 255) ∧ decodeWord 0x0000FF02#32 = .ok (.absorbByte 0xFF) := by
  decide

theorem witness_DecodesExactlyTheTableRows :
    (∃ r ∈ commandRows, r.matchesWord 0x00FF0003 = true) ∧ (∃ r ∈ commandRows, r.matchesWord 0x0000FF02 = true) ∧
    decodeWord 0x00FF0003 = .ok (.absorb 255) := by decide

theorem witness_StepRunsDecodedCommand :
    (∃ (s : State) (i : Instr), s.turn = .engine ∧ s.engine.latch.busy = true ∧ decodeWord s.engine.latch.pend = .ok i) ∧
    (∃ s : State, s.turn = .engine ∧ s.engine.latch.busy = false) :=
  ⟨⟨pending keyed 0x00400003, .absorb 64, rfl, rfl, by decide⟩, ⟨⟨.blake2s, plain, hostOf [] [.engine]⟩, rfl, rfl⟩⟩

theorem witness_PlacedWordRunsNext : ∃ (nbits w : Nat) (i : Instr), decodeTableWord nbits w = some i :=
  ⟨32, 0x00FF0003, .absorb 255, by decide⟩

/-- One word for each part of `IllegalWord`, and one that is a command. -/
theorem witness_IllegalWordsCompleteWithIllegalCommand :
    (∀ c ∈ [0x00000000, 0x00000008, 0x0000000F, 0x00000013, 0x01000005, 0x00000104, 0x00016102, 0x00400002],
      (pending plain c).turn = .engine ∧ (pending plain c).engine.latch.busy = true ∧
      IllegalWord (pending plain c).engine.latch.pend.toNat) ∧
    ((pending plain 0x00FF0003).turn = .engine ∧ (pending plain 0x00FF0003).engine.latch.busy = true ∧
      ¬ IllegalWord (pending plain 0x00FF0003).engine.latch.pend.toNat) := by
  refine ⟨fun c h => ⟨rfl, rfl, ?_⟩, rfl, rfl, ?_⟩
  · show IllegalWord c.toNat
    simp only [List.mem_cons, List.not_mem_nil, or_false] at h
    rcases h with rfl | rfl | rfl | rfl | rfl | rfl | rfl | rfl <;> unfold IllegalWord <;> decide
  · show ¬ IllegalWord (0x00FF0003#32).toNat
    unfold IllegalWord; decide

/-! ### Completion and errors -/

theorem witness_ErrorCompletionChangesNothingElse : ∃ (V : Variant) (e e' : Engine V) (c : BitVec 32) (hs : HostSide),
    engineStep ⟨V, e.latchCommand c, hs⟩ = .next ⟨V, e', hs⟩ ∧ e'.latch.err ≠ 0 :=
  ⟨.blake2s, plain, _, 0x00410003, hostOf [] [], step_pending plain 0x00410003 (.absorb 65) (by decide), by decide +kernel⟩

theorem witness_CommandsNeedAnInstance : ∃ (i : Instr) (V : Variant) (e : Engine V), i ≠ .configure ∧ e.params.configured = false :=
  ⟨.absorb 65, .blake2s, Engine.reset .blake2s, nofun, rfl⟩

/-! ### CONFIGURE -/

/-- The least and the greatest lengths, in bytes and in bits, with a key of the greatest length, a salt and a personalization. -/
theorem witness_ConfigureStartsAnInstance :
    LegalConfig .blake2s 0x00000001 0 1 0 ∧ LegalConfig .blake2s 0x00000408 0 1 0 ∧
    LegalConfig .blake2s 0x03200500 0x00000808 32 32 ∧ LegalConfig .blake2b 0x03400600 0x00001010 64 64 ∧
    (asked (Engine.reset .blake2s) 0x03200500 0x00000808).staging.cfg.toNat = 0x03200500 ∧
    (asked (Engine.reset .blake2s) 0x03200500 0x00000808).staging.cfglen.toNat = 0x00000808 := by
  refine ⟨?_, ?_, ?_, ?_, rfl, rfl⟩ <;> constructor <;> decide +kernel

/-- X19, X2, X13, X20, X16, X17 and X18: each is refused, whatever length is asked of it. -/
theorem witness_FailedConfigureKeepsTheInstance :
    (∀ d k, ¬ LegalConfig .blake2s 0x00000000 0 d k) ∧ (∀ d k, ¬ LegalConfig .blake2s 0x00000021 0 d k) ∧
    (∀ d k, ¬ LegalConfig .blake2s 0x00000401 0 d k) ∧ (∀ d k, ¬ LegalConfig .blake2s 0x00400020 0 d k) ∧
    (∀ d k, ¬ LegalConfig .blake2s 0x01000020 4 d k) ∧ (∀ d k, ¬ LegalConfig .blake2s 0x00000820 0 d k) ∧
    (∀ d k, ¬ LegalConfig .blake2s 0x00000020 0x00010000 d k) ∧
    (asked keyed 0x00000021 0).staging.cfg.toNat = 0x00000021 ∧ (asked keyed 0x00000021 0).staging.cfglen.toNat = 0 := by
  refine ⟨fun d k h => ?_, fun d k h => ?_, fun d k h => ?_, fun d k h => ?_, fun d k h => ?_, fun d k h => ?_,
    fun d k h => ?_, rfl, rfl⟩
  · have := h.inBytes (by decide); have := h.digestLow; omega
  · have := h.inBytes (by decide); have := h.digestHigh; simp at this; omega
  · have := h.inBits (by decide); omega
  · have := h.keyField; have := h.keyHigh; simp at this; omega
  · exact absurd (h.salt (by decide)) (by decide)
  · exact absurd h.reserved11 (by decide)
  · exact absurd h.reservedLen (by decide)

theorem witness_LengthInBitsConstructsTheSameInstance :
    (1 ≤ 1 ∧ 1 ≤ Variant.blake2s.maxDigest ∧ (Engine.reset .blake2s).staging.cfglen.toNat < 2 ^ 16) ∧
    (1 ≤ 64 ∧ 64 ≤ Variant.blake2b.maxDigest ∧ (asked (Engine.reset .blake2b) 0 0xFFFF).staging.cfglen.toNat < 2 ^ 16) := by
  decide +kernel

/-- The greatest lengths, and the first and last byte of a salt word. -/
theorem witness_ParameterWordAndChainValue : (64 ≤ 64 ∧ 64 ≤ 64) ∧ (paramWord .blake2s 32 0).toNat = 0x01010020 ∧
    (keyed.params.dl ≤ 64 ∧ keyed.params.kl ≤ 64) ∧
    (0 < Variant.blake2s.wordBytes ∧ Variant.blake2s.wordBytes + 0 < Variant.blake2s.saltBytes) ∧
    (7 < Variant.blake2b.wordBytes ∧ Variant.blake2b.wordBytes + 7 < Variant.blake2b.saltBytes) := by decide +kernel

/-! ### Absorbing -/

theorem witness_AbsorbByteStoresWithRoom :
    (plain.params.configured = true ∧ plain.hash.cur < Variant.blake2s.blockBytes) ∧
    ((holding plain (bytesFrom 0 63) 0).params.configured = true ∧ (holding plain (bytesFrom 0 63) 0).hash.cur < Variant.blake2s.blockBytes) := by
  decide +kernel

theorem witness_AbsorbByteCompressesFullBuffer :
    keyed.params.configured = true ∧ keyed.hash.cur = Variant.blake2s.blockBytes := by decide +kernel

/-- No byte at all, and exactly a full buffer. -/
theorem witness_AbsorbThatFitsOnlyBuffers :
    (keyed.params.configured = true ∧ keyed.hash.cur + 0 ≤ Variant.blake2s.blockBytes) ∧
    (plain.params.configured = true ∧ plain.hash.cur + 64 ≤ Variant.blake2s.blockBytes) := by decide +kernel

/-- One byte into a full buffer, and a whole block into one with one byte of room. -/
theorem witness_AbsorbThatSpillsCompressesOneBlock :
    (keyed.params.configured = true ∧ 1 ≤ Variant.blake2s.blockBytes ∧ keyed.hash.cur ≤ Variant.blake2s.blockBytes ∧
      Variant.blake2s.blockBytes < keyed.hash.cur + 1) ∧
    ((holding plain [0x61] 0).params.configured = true ∧ 64 ≤ Variant.blake2s.blockBytes ∧
      (holding plain [0x61] 0).hash.cur ≤ Variant.blake2s.blockBytes ∧
      Variant.blake2s.blockBytes < (holding plain [0x61] 0).hash.cur + 64) := by decide +kernel

theorem witness_AbsorbTooLongIsBadLength :
    (plain.params.configured = true ∧ Variant.blake2s.blockBytes < 65) ∧
    ((started .blake2b 64 [] none none).params.configured = true ∧ Variant.blake2b.blockBytes < 129) := by decide +kernel

theorem witness_AbsorbEqualsItsBytesInTurn :
    plain.params.configured = true ∧ 1 ≤ 64 ∧ 64 ≤ Variant.blake2s.blockBytes := by decide +kernel

/-! ### FINALIZE, RESET and the clears -/

/-- The last byte of the digest and the first one after it. -/
theorem witness_FinalizeWritesTheDigestAndRestarts :
    keyed.params.configured = true ∧ keyed.params.dl ≤ Variant.blake2s.maxDigest ∧
    (31 < 64 ∧ 31 < keyed.params.dl ∧ 31 / Variant.blake2s.wordBytes < 8) ∧ (32 < 64 ∧ keyed.params.dl ≤ 32) := by
  decide +kernel

/-- No byte yet, and a full buffer that the next byte compresses. -/
theorem witness_EngineComputesTheBlockwiseHash_fold : (plain.params.configured = true ∧ plain.FoldOf (paramInit plain.params) []) ∧
    keyed.params.configured = true ∧ keyed.FoldOf (paramInit keyed.params) (bytesFrom 0 32 ++ (zeros 32).toList) :=
  ⟨⟨rfl, rfl, rfl, rfl, by decide +kernel, rfl⟩, rfl, rfl, rfl, rfl, by decide +kernel, by decide +kernel⟩

theorem witness_EngineComputesTheBlockwiseHash :
    keyed.params.configured = true ∧ keyed.params.kl ≤ Variant.blake2s.maxDigest ∧ keyed.hash = keyed.reinit.hash :=
  ⟨rfl, by decide +kernel, rfl⟩

theorem witness_ResetRestartsTheInstance : (holding keyed [0x61] 64).params.configured = true := rfl

/-- The last byte of a key of the greatest length, and the first byte after it. -/
theorem witness_KeyPrimingPadsTheKey :
    keyed.params.kl ≤ Variant.blake2s.maxDigest ∧ (31 < Variant.blake2s.maxDigest ∧ 31 < keyed.params.kl) ∧
    (32 < Variant.blake2s.blockBytes ∧ keyed.params.kl ≤ 32) := by decide +kernel

theorem witness_ResetForgetsAbsorbedBytes : keyed.params.configured = true ∧ keyed.hash = keyed.reinit.hash := ⟨rfl, rfl⟩

theorem witness_ClearKeyZeroesKeyMaterial :
    (keyed.params.configured = true ∧ 0 < keyed.params.kl) ∧ (plain.params.configured = true ∧ plain.params.kl = 0) := by
  decide +kernel

/-- Two engines with different keys: the bytes `00..1f`, and zeros in the staging, the retained key and the buffer. -/
theorem witness_ClearKeyForgetsStagingRetainedKeyAndBuffer : ∃ (V : Variant) (a b : Engine V),
    (a.params.configured = true ∧ 0 < a.params.kl ∧
      b.staging = { a.staging with keys := b.staging.keys } ∧ b.params = { a.params with keyr := b.params.keyr } ∧
      b.hash = { a.hash with buf := b.hash.buf } ∧ b.latch = a.latch ∧ b.scratch = a.scratch ∧ b.output = a.output) ∧
    a.params.keyr ≠ b.params.keyr :=
  ⟨.blake2s, keyed,
    { keyed with
      staging := { keyed.staging with keys := padded 64 [0x41] }
      params := { keyed.params with keyr := zeros _ }
      hash := { keyed.hash with buf := zeros _ } },
    ⟨rfl, by decide +kernel, rfl, rfl, rfl, rfl, rfl, rfl⟩, by decide +kernel⟩

theorem witness_ClearedKeyActsAsZeroBytes : keyed.params.configured = true ∧ 0 < keyed.params.kl := by decide +kernel

theorem witness_ClearSaltZeroesTheSalt : salted.params.configured = true ∧ plain.params.configured = true := ⟨rfl, rfl⟩

theorem witness_ClearedSaltActsAsAbsent : salted.params.configured = true ∧ salted.params.saltp = true := ⟨rfl, rfl⟩

/-! ### The window -/

/-- CFG read back, INBUF31 read back, KEY0, written, read as before, and ID after a reserved offset; the ends of each
byte array, the registers around them, and the host's turn for such a write. -/
theorem witness_WriteThenReadRegisters :
    ∀ p ∈ [(0x004, 0x004), (0x17C, 0x17C), (0x100, 0x0FC), (0x040, 0x040), (0x1FC, 0x000)],
      inWindow p.1 = true ∧ admitted p.1 32 = true ∧ inWindow p.2 = true ∧ admitted p.2 32 = true ∧ p.1 ≠ offCmd := by decide

theorem witness_WriteThenReadRegisters_step :
    ∀ off ∈ [0x000, 0x004, 0x008, 0x010, 0x03C, 0x040, 0x07C, 0x080, 0x08C, 0x090, 0x09C, 0x0A0, 0x0FC, 0x100, 0x17C, 0x180, 0x1FC],
      inWindow off = true ∧ admitted off 32 = true ∧ off ≠ offCmd ∧
      State.turn ⟨.blake2s, plain, hostOf [.write off 32 5] []⟩ = .host ∧ plain.latch.busy = false := by decide +kernel

theorem witness_PackedWritesAreLittleEndian : (63 < 64 ∧ 15 < 16 ∧ 127 < 128) ∧ (3 < 4 ∧ 4 * (15 : Fin 16).val + 3 < 64) ∧
    4 * (3 : Fin 4).val + 3 < 16 ∧ 4 * (31 : Fin 32).val + 3 < 128 := by decide

theorem witness_RegistersRevealNoSecret : ∃ (V : Variant) (a b : Engine V), a.SameToReader b ∧ a.params.keyr ≠ b.params.keyr :=
  ⟨.blake2s, keyed, { keyed with params := { keyed.params with keyr := zeros _ } },
    ⟨rfl, rfl, rfl, rfl, rfl, rfl, rfl, rfl, rfl, rfl, rfl, rfl, rfl, rfl, rfl⟩, by decide +kernel⟩

theorem witness_ReadOnlyRegisterValues : keyed.hash.cur ≤ Variant.blake2s.blockBytes ∧ keyed.output.outlen < 256 ∧
    keyed.params.dl < 256 ∧ keyed.params.kl < 256 := by decide +kernel

/-- Each command without error, keyed or not, one with an error, and one with no instance there. -/
theorem witness_StateTransitions :
    (∃ e' : Engine .blake2s, exec .reset ⟨_, Engine.reset .blake2s, hostOf [] []⟩ = .next ⟨_, e', hostOf [] []⟩ ∧
      (Engine.reset .blake2s).phase = .unconfigured ∧ Instr.reset ≠ .configure) ∧
    (∀ i ∈ [.absorbByte 0x61, .absorb 0, .absorb 1, .finalize, .reset, .clearKey, .clearSalt], ∀ e ∈ [plain, keyed],
      ∃ e' : Engine .blake2s, exec i ⟨_, e, hostOf [] []⟩ = .next ⟨_, e', hostOf [] []⟩ ∧ e'.latch.err = 0) ∧
    (∃ e' : Engine .blake2s, exec .configure ⟨_, asked plain 0x20 0, hostOf [] []⟩ = .next ⟨_, e', hostOf [] []⟩ ∧ e'.latch.err = 0) ∧
    (∃ e' : Engine .blake2s, exec .configure ⟨_, plain, hostOf [] []⟩ = .next ⟨_, e', hostOf [] []⟩ ∧ e'.latch.err ≠ 0) := by
  refine ⟨⟨_, exec_mk .., rfl, nofun⟩, fun i hi e he => ⟨_, exec_mk i _ e _, ?_⟩, ⟨_, exec_mk .., by decide +kernel⟩, ⟨_, exec_mk .., by decide +kernel⟩⟩
  have hc : e.params.configured = true := by
    simp only [List.mem_cons, List.not_mem_nil, or_false] at he
    rcases he with rfl | rfl <;> rfl
  simp only [List.mem_cons, List.not_mem_nil, or_false] at hi
  rcases hi with rfl | rfl | rfl | rfl | rfl | rfl | rfl <;> simp [Engine.effect, Engine.absorb, hc]

theorem witness_IdleReadsHaveNoSideEffect :
    State.turn ⟨.blake2s, plain, hostOf [.read 0x1FC 32] []⟩ = .host ∧ inWindow 0x1FC = true ∧ 0x1FC % 4 = 0 ∧
    plain.latch.busy = false := by decide +kernel

theorem witness_BusyAccesses :
    State.turn ⟨.blake2s, plain.latchCommand 4, hostOf [.read 0x010 32] [.host]⟩ = .host ∧
    State.turn ⟨.blake2s, plain.latchCommand 4, hostOf [.write 0x1FC 32 0] [.host]⟩ = .host ∧
    (inWindow 0x010 = true ∧ 0x010 % 4 = 0) ∧ (inWindow 0x1FC = true ∧ 0x1FC % 4 = 0) ∧
    (plain.latchCommand 4).latch.busy = true := by decide +kernel

theorem witness_CmdWriteLatchesTheWord :
    State.turn ⟨.blake2s, plain, hostOf [.write 0x00C 32 4, .wait] []⟩ = .host ∧ plain.latch.busy = false := by decide +kernel

/-- A byte access, an access of 64 bits, and a misaligned one, at the window's ends. -/
theorem witness_OtherWidthsAndAlignmentsFault :
    State.turn ⟨.blake2s, plain, hostOf [.read 0x1FF 8] []⟩ = .host ∧
    ∀ p ∈ [(0x000, 64), (0x1FF, 8), (0x1FE, 32), (0x001, 32)], p.1 < 0x200 ∧ (p.2 ≠ 32 ∨ p.1 % 4 ≠ 0) := by decide +kernel

theorem witness_OnlyHostViolationsStopTheMachine :
    (∃ s F, step s = .fault F ∧ F = .busFault 0x1FE 32) ∧ (∃ s F, step s = .fault F ∧ F = .hostWriteWhileBusy 0x00C) :=
  ⟨⟨⟨.blake2s, plain, hostOf [.read 0x1FE 32] []⟩, _, rfl, rfl⟩,
   ⟨⟨.blake2s, plain.latchCommand 4, hostOf [.write 0x00C 32 5] [.host]⟩, _, rfl, rfl⟩⟩

theorem witness_AccessesOutsideTheWindowDoNotReachTheEngine :
    State.turn ⟨.blake2s, plain.latchCommand 4, hostOf [.write 0x200 8 0] [.host]⟩ = .host ∧
    State.turn ⟨.blake2s, plain, hostOf [.read 0x200 64] []⟩ = .host ∧ 0x200 ≤ 0x200 := by decide +kernel

/-- More to do after the loop, and nothing: the run ends with it. -/
theorem witness_WaitLoopEndsAfterCompletion : ∀ rest ∈ [[.read 0x180 32], []],
    ∃ (e : Engine .blake2s) (hs : HostSide) (n : Nat),
      e.latch.busy = true ∧ hs.program = .wait :: rest ∧ hs.schedule = List.replicate n .host :=
  fun rest _ => ⟨keyed.latchCommand 4, { hostOf (.wait :: rest) [.host, .host] with awaiting := true }, 2, rfl, rfl, rfl⟩

/-- The empty string, three bytes, and a whole INBUF. -/
theorem witness_LoadInFillsInbuf : ∀ bs ∈ [[], [0x61, 0x62, 0x63], bytesFrom 0 128],
    ∃ (e : Engine .blake2s) (hs : HostSide) (ops : List HostOp),
      e.latch.busy = false ∧ hs.schedule = [] ∧ loadIn bs = some ops ∧ hs.program = ops := by
  intro bs h
  have hl : bs.length ≤ 128 := by revert bs h; decide +kernel
  exact ⟨plain, hostOf _ [], _, rfl, rfl, if_pos hl, rfl⟩

/-! ### The datapath -/

theorem witness_RotationBits : (0 < 1 ∧ 1 < Variant.blake2s.wordBits ∧ 31 < Variant.blake2s.wordBits) ∧
    (0 < 63 ∧ 63 < Variant.blake2b.wordBits ∧ 0 < Variant.blake2b.wordBits) := by decide

theorem witness_CounterAddCarriesBetweenHalves : 64 ≤ Variant.blake2s.blockBytes ∧ 128 ≤ Variant.blake2b.blockBytes := by decide

theorem witness_HalfRoundCallsCommute : ([3, 1, 0, 2] : List (Fin 4)).Nodup := by decide

end Sys2Proof.Tests
end

section
/-!
PROOFS. The decoder read backwards: a word that decodes is the word of its command (R90 to R97).
-/

namespace Sys2Proof

/-- R90: a word is its five fields, from bit 31 down. -/
theorem fields_join (c : BitVec 32) :
    fieldZ2 c ++ fieldLen c ++ fieldImm8 c ++ fieldZ1 c ++ fieldOp c = c := by
  ext k hk
  simp only [fieldOp, fieldZ1, fieldImm8, fieldLen, fieldZ2, BitVec.getElem_append, BitVec.getElem_extractLsb']
  grind

/-- R91 to R94: the command of an opcode has that opcode, and its operand fields are the word's where it uses them. -/
theorem instrOfOp_some {op : BitVec 4} {b l : BitVec 8} {i : Instr} (h : instrOfOp op b l.toNat = some i)
    (hb : op ≠ 2 → b = 0) (hl : op ≠ 3 → l = 0) : i.opcode = op ∧ i.imm8 = b ∧ i.len = l := by
  have hop (k : Nat) (hk : op.toNat = k) : op = BitVec.ofNat 4 k := by simp [← hk]
  unfold instrOfOp at h
  split at h
  case h_8 => cases h
  all_goals
    rename_i hk
    cases h
    obtain rfl := hop _ hk
    simp [Instr.opcode, Instr.imm8, Instr.len, hb, hl]

/-- R97: a word that decodes is the word of its command. -/
theorem encode_of_decodeWord {c : BitVec 32} {i : Instr} (h : decodeWord c = .ok i) : encode i = c := by
  unfold decodeWord at h
  split at h
  · cases h
  · rename_i i' hi
    split_ifs at h with hz hb hl
    cases h
    push Not at hz hb hl
    obtain ⟨hop, him, hlen⟩ := instrOfOp_some hi hb hl
    conv_rhs => rw [← fields_join c]
    rw [encode, hop, him, hlen, hz.1, hz.2]

end Sys2Proof
end

section
/-!
PROOFS. What a command's effect and one step can do to the engine, as two relations with named cases; and the invariants
of R45, kept by each of them.
-/

namespace Sys2Proof.Machine

/-! The commands and one step, on the engine alone. -/

/-- What a command does to the engine `e` when it has an effect. -/
inductive CommandEffect {V : Variant} (e : Engine V) : Instr → Engine V → Prop
  | configure (d k : Nat) : configureChecks V e.staging.cfg e.staging.cfglen = .ok (d, k) →
      CommandEffect e .configure (e.commit d k)
  | absorbByte (b : Byte) : e.params.configured = true → CommandEffect e (.absorbByte b) (e.absorbByte b)
  | absorb (n : Nat) : e.params.configured = true → n ≤ V.blockBytes →
      CommandEffect e (.absorb n) (e.absorbBytes (e.staging.inbuf.toList.take n))
  | finalize : e.params.configured = true → CommandEffect e .finalize e.finalize
  | reset : e.params.configured = true → CommandEffect e .reset e.reinit
  | clearKey : e.params.configured = true → CommandEffect e .clearKey e.clearKey
  | clearSalt : e.params.configured = true → CommandEffect e .clearSalt e.clearSalt

/-- An effect that is no error is the one of the command's own rule. -/
theorem Engine.effect_ok {V : Variant} {e x : Engine V} {i : Instr} (h : e.effect i = .ok x) :
    CommandEffect e i x := by
  obtain ⟨rfl, d, k, hd, rfl⟩ | ⟨hc, ⟨b, rfl, rfl⟩ | ⟨n, rfl, hn, rfl⟩ | ⟨rfl, rfl⟩ | ⟨rfl, rfl⟩ | ⟨rfl, rfl⟩ |
    ⟨rfl, rfl⟩⟩ := Engine.effect_ok_cases h
  · exact .configure d k hd
  · exact .absorbByte b hc
  · exact .absorb n hc hn
  · exact .finalize hc
  · exact .reset hc
  · exact .clearKey hc
  · exact .clearSalt hc

/-- What one step does to the engine `e` when it does not stop, by whose turn it is: nothing; one register write of the
host; a command's effect and success, or an error and nothing else; or hardware reset. -/
inductive StepMove {V : Variant} (e : Engine V) (turn : Turn) : Engine V → Prop
  | stay : turn ≠ .hardwareReset → (turn = .engine → e.latch.busy = false) → StepMove e turn e
  | write (r : Reg) (x : BitVec 32) : turn = .host → StepMove e turn (e.writeReg r x)
  | done (i : Instr) (x : Engine V) : turn = .engine → e.latch.busy = true → decodeWord e.latch.pend = .ok i →
      e.effect i = .ok x → StepMove e turn x.succeed
  | failed (E : ErrCode) : turn = .engine → e.latch.busy = true → E ≠ .ok → StepMove e turn (e.raise E)
  | reset : turn = .hardwareReset → StepMove e turn (Engine.reset V)

/-- Every step that does not stop is one of these moves. -/
theorem step_move {V : Variant} {e : Engine V} {hs : HostSide} {t : State} (h : step ⟨V, e, hs⟩ = .next t) :
    ∃ (e' : Engine V) (hs' : HostSide), t = ⟨V, e', hs'⟩ ∧ StepMove e (State.turn ⟨V, e, hs⟩) e' := by
  obtain ⟨e', hs', ht, ⟨rfl, hr, hb⟩ | ⟨off, x, rest, hh, -, -, -, -, rfl⟩ | ⟨i, hE, hb, hd, rfl⟩ |
    ⟨r, hE, hb, hd, rfl⟩ | ⟨hR, rfl⟩⟩ := step_next_cases h
  · exact ⟨_, hs', ht, .stay hr hb⟩
  · exact ⟨_, hs', ht, .write _ x hh⟩
  · refine ⟨_, hs', ht, ?_⟩
    rcases e.finish_cases (e.effect i) with ⟨x, hx, hf⟩ | ⟨E, hx, hf⟩ <;> rw [hf]
    · exact .done i x hE hb hd hx
    · exact .failed E hE hb (Engine.effect_error hx).1
  · exact ⟨_, hs', ht, .failed _ hE hb nofun⟩
  · exact ⟨_, hs', ht, .reset hR⟩

/-- The move of a step between states given by their parts. -/
theorem step_move_mk {V : Variant} {e e' : Engine V} {hs hs' : HostSide}
    (h : step ⟨V, e, hs⟩ = .next ⟨V, e', hs'⟩) : StepMove e (State.turn ⟨V, e, hs⟩) e' := by
  obtain ⟨_, _, ht, hm⟩ := step_move h
  cases ht
  exact hm

/-! A register write, field by field, as `Engine.writeReg_groups` says. -/

@[simp] theorem Engine.writeReg_params {V : Variant} (e : Engine V) (r : Reg) (x : BitVec 32) :
    (e.writeReg r x).params = e.params := (e.writeReg_groups r x).1
@[simp] theorem Engine.writeReg_hash {V : Variant} (e : Engine V) (r : Reg) (x : BitVec 32) :
    (e.writeReg r x).hash = e.hash := (e.writeReg_groups r x).2.1
@[simp] theorem Engine.writeReg_output {V : Variant} (e : Engine V) (r : Reg) (x : BitVec 32) :
    (e.writeReg r x).output = e.output := (e.writeReg_groups r x).2.2.2.1
@[simp] theorem Engine.writeReg_err {V : Variant} (e : Engine V) (r : Reg) (x : BitVec 32) :
    (e.writeReg r x).latch.err = e.latch.err := (e.writeReg_groups r x).2.2.2.2.1
@[simp] theorem Engine.writeReg_sticky {V : Variant} (e : Engine V) (r : Reg) (x : BitVec 32) :
    (e.writeReg r x).latch.sticky = e.latch.sticky := (e.writeReg_groups r x).2.2.2.2.2

/-! The invariants. -/

/-- R29: the invariants on the retained parameters while `configured`. -/
structure Params.Valid {V : Variant} (p : Params V) : Prop where
  configured : p.configured = true
  digestLength : 1 ≤ p.dl
  digestBound : p.dl ≤ V.maxDigest
  keyBound : p.kl ≤ V.maxDigest
  keyTail : zeroFrom p.keyr p.kl
  absentSalt : p.saltp = false → p.saltr = zeros _
  absentPers : p.persp = false → p.persr = zeros _

/-- Under the invariants the parameters of a configured engine are valid. -/
theorem Engine.Inv.valid {V : Variant} {e : Engine V} (h : e.Inv) (hc : e.params.configured = true) : e.params.Valid :=
  ⟨hc, h.digestLength hc, h.digestBound, h.keyBound, h.keyTail, h.absentSalt, h.absentPers⟩

/-- The invariants speak of the parameters, the hash state, the output and the error state only. -/
theorem Engine.Inv.congr {V : Variant} {a b : Engine V} (h : a.Inv) (hp : b.params = a.params) (hh : b.hash = a.hash)
    (ho : b.output = a.output) (he : b.latch.err.toNat ≤ 4) (hs : b.latch.err ≠ 0 → b.latch.sticky = true) :
    b.Inv where
  bufferTail := hh ▸ h.bufferTail
  cursor := hh ▸ h.cursor
  flag := hh ▸ h.flag
  blank hc := by
    have hb := h.blank (hp ▸ hc)
    constructor <;> simp only [hp, hh, ho, hb.dl, hb.kl, hb.h, hb.t, hb.cur, hb.buf, hb.saltp, hb.persp, hb.outlen]
  digestLength := hp ▸ h.digestLength
  digestBound := hp ▸ h.digestBound
  keyBound := hp ▸ h.keyBound
  keyTail := hp ▸ h.keyTail
  absentSalt := hp ▸ h.absentSalt
  absentPers := hp ▸ h.absentPers
  outputLength := by rw [hp, ho]; exact h.outputLength
  outputTail := ho ▸ h.outputTail
  errorCode := he
  errorSticky := hs

/-- R44: success keeps the invariants. -/
theorem Engine.Inv.succeed {V : Variant} {e : Engine V} (h : e.Inv) : e.succeed.Inv :=
  h.congr rfl rfl rfl (by simp) (by simp)

/-- R240, R44: an error keeps the invariants. -/
theorem Engine.Inv.raise {V : Variant} {e : Engine V} (h : e.Inv) (E : ErrCode) : (e.raise E).Inv :=
  h.congr rfl rfl rfl E.code_le fun _ => rfl

/-- R69, R72: a register write keeps the invariants. -/
theorem Engine.Inv.writeReg {V : Variant} {e : Engine V} (h : e.Inv) (r : Reg) (x : BitVec 32) : (e.writeReg r x).Inv :=
  h.congr (by simp) (by simp) (by simp) (by simpa using h.errorCode) (by simpa using h.errorSticky)

/-- R47: the reset engine meets the invariants. -/
theorem Engine.reset_inv (V : Variant) : (Engine.reset V).Inv where
  bufferTail i _ := by simp [Engine.reset]
  cursor := Nat.zero_le _
  flag := rfl
  blank _ := ⟨rfl, rfl, rfl, rfl, rfl, rfl, rfl, rfl, rfl⟩
  digestLength := nofun
  digestBound := Nat.zero_le _
  keyBound := Nat.zero_le _
  keyTail i _ := by simp [Engine.reset]
  absentSalt _ := rfl
  absentPers _ := rfl
  outputLength := .inl rfl
  outputTail i _ := by simp [Engine.reset]
  errorCode := Nat.zero_le _
  errorSticky h := absurd rfl h

/-- R28: a byte array of zeros is zero from any index on. -/
theorem zeroFrom_zeros (n k : Nat) : zeroFrom (zeros n) k := fun i _ => by simp

/-- R28, R203: storing at the cursor leaves zeros after it. -/
theorem zeroFrom_setIfInBounds {n : Nat} {bs : Vector Byte n} {k : Nat} (h : zeroFrom bs k) (b : Byte) :
    zeroFrom (bs.setIfInBounds k b) (k + 1) := by
  intro i hi
  have hzero : bs[i.val] = 0 := h i (by omega)
  simp [show k ≠ i.val by omega, hzero]

/-- R200, R28: a primed buffer is zero from its cursor on. -/
theorem zeroFrom_primedBuffer {V : Variant} (p : Params V) : zeroFrom (primedBuffer p) (primedCursor p) := by
  intro i hi
  unfold primedCursor at hi
  split at hi
  · exact absurd i.isLt (by omega)
  · simp [show ¬ i.val < p.kl by omega]

/-- R200, R28: a primed cursor is within the buffer. -/
theorem primedCursor_le {V : Variant} (p : Params V) : primedCursor p ≤ V.blockBytes := by
  unfold primedCursor; split <;> omega

/-- R213: the digest window is zero after the digest. -/
theorem zeroFrom_digestWindow {V : Variant} (h : Vector (Word V) 8) (dl : Nat) : zeroFrom (digestWindow h dl) dl :=
  fun i hi => by simp [Nat.not_lt.2 hi]

/-- The invariants of an engine with valid parameters: it is configured, so R45 (iii) says nothing of it. -/
theorem Engine.inv_of_valid {V : Variant} {e : Engine V} (hp : e.params.Valid) (hz : zeroFrom e.hash.buf e.hash.cur)
    (hb : e.hash.cur ≤ V.blockBytes) (hf : e.hash.f = 0) (hl : e.output.outlen = 0 ∨ e.output.outlen = e.params.dl)
    (ht : zeroFrom e.output.dout e.output.outlen) (he : e.latch.err.toNat ≤ 4)
    (hs : e.latch.err ≠ 0 → e.latch.sticky = true) : e.Inv where
  bufferTail := hz
  cursor := hb
  flag := hf
  blank hc := nomatch hp.configured.symm.trans hc
  digestLength _ := hp.digestLength
  digestBound := hp.digestBound
  keyBound := hp.keyBound
  keyTail := hp.keyTail
  absentSalt := hp.absentSalt
  absentPers := hp.absentPers
  outputLength := hl
  outputTail := ht
  errorCode := he
  errorSticky := hs

/-- R200: a Reinit with valid parameters establishes the invariants on the hash state. -/
theorem Engine.reinit_inv {V : Variant} {e : Engine V} (hp : e.params.Valid)
    (hl : e.output.outlen = 0 ∨ e.output.outlen = e.params.dl) (ht : zeroFrom e.output.dout e.output.outlen)
    (he : e.latch.err.toNat ≤ 4) (hs : e.latch.err ≠ 0 → e.latch.sticky = true) : e.reinit.Inv :=
  Engine.inv_of_valid hp (zeroFrom_primedBuffer e.params) (primedCursor_le e.params) rfl hl ht he hs

/-- R218: RESET keeps the invariants of a configured engine. -/
theorem Engine.Inv.reinit {V : Variant} {e : Engine V} (h : e.Inv) (hc : e.params.configured = true) : e.reinit.Inv :=
  Engine.reinit_inv (h.valid hc) h.outputLength h.outputTail h.errorCode h.errorSticky

/-- R210 to R215: FINALIZE keeps the invariants of a configured engine. -/
theorem Engine.Inv.finalize {V : Variant} {e : Engine V} (h : e.Inv) (hc : e.params.configured = true) :
    e.finalize.Inv :=
  Engine.reinit_inv (e := (e.countTail.compressBuffer true).putDigest.zeroise) (h.valid hc) (.inr rfl)
    (zeroFrom_digestWindow _ _) h.errorCode h.errorSticky

/-- R146: the lengths that CONFIGURE's checks let pass. -/
theorem configureChecks_ok {V : Variant} {c cl : BitVec 32} {d k : Nat} (h : configureChecks V c cl = .ok (d, k)) :
    1 ≤ d ∧ d ≤ V.maxDigest ∧ k ≤ V.maxDigest := by
  unfold configureChecks at h
  split at h
  · cases h
  · split at h
    · cases h
    · split_ifs at h with hd hk
      cases h
      omega

/-- R150, R29: the parameters that CONFIGURE latches are valid. -/
theorem configuredParams_valid {V : Variant} (st : Staging) {d k : Nat} (h1 : 1 ≤ d) (hd : d ≤ V.maxDigest)
    (hk : k ≤ V.maxDigest) : (configuredParams V st d k).Valid where
  configured := rfl
  digestLength := h1
  digestBound := hd
  keyBound := hk
  keyTail i hi := by
    have hi : ¬ i.val < k := Nat.not_lt.2 hi
    simp [configuredParams, hi]
  absentSalt h := by
    have h : cfgSaltEn st.cfg = false := h
    ext i hi
    simp [configuredParams, h]
  absentPers h := by
    have h : cfgPersEn st.cfg = false := h
    ext i hi
    simp [configuredParams, h]

/-- R150: CONFIGURE's commit establishes the invariants. -/
theorem Engine.Inv.commit {V : Variant} {e : Engine V} (h : e.Inv) {d k : Nat} (h1 : 1 ≤ d) (hd : d ≤ V.maxDigest)
    (hk : k ≤ V.maxDigest) : (e.commit d k).Inv :=
  Engine.reinit_inv (e := e.latchParams d k) (configuredParams_valid e.staging h1 hd hk) (.inl rfl)
    (zeroFrom_zeros 64 0) h.errorCode h.errorSticky

/-- R201: absorbing a byte keeps the invariants of a configured engine. -/
theorem Engine.Inv.absorbByte {V : Variant} {e : Engine V} (h : e.Inv) (hc : e.params.configured = true) (b : Byte) :
    (e.absorbByte b).Inv := by
  refine Engine.inv_of_valid (by simpa using h.valid hc) ?_ ?_ (by simpa using h.flag) (by simpa using h.outputLength)
    (by simpa using h.outputTail) (by simpa using h.errorCode) (by simpa using h.errorSticky)
  · by_cases hf : e.hash.cur = V.blockBytes
    · rw [e.absorbByte_full b hf]
      exact zeroFrom_setIfInBounds (zeroFrom_zeros _ _) b
    · rw [e.absorbByte_room b hf]
      exact zeroFrom_setIfInBounds h.bufferTail b
  · have := h.cursor
    have := variant_sizes V
    rw [e.absorbByte_cur]
    split <;> omega

/-- R206: absorbing a string keeps the invariants of a configured engine. -/
theorem Engine.Inv.absorbBytes {V : Variant} {e : Engine V} (h : e.Inv) (hc : e.params.configured = true)
    (bs : List Byte) : (e.absorbBytes bs).Inv := by
  induction bs generalizing e with
  | nil => exact h
  | cons b bs ih => exact ih (h.absorbByte hc b) (by simpa using hc)

/-- R222: the parameters that CLEAR_KEY leaves are valid. -/
theorem Engine.clearKey_params_valid {V : Variant} {e : Engine V} (h : e.params.Valid) : e.clearKey.params.Valid where
  configured := by simpa using h.configured
  digestLength := by simpa using h.digestLength
  digestBound := by simpa using h.digestBound
  keyBound := by simpa using h.keyBound
  keyTail := by
    rw [e.clearKey_keyr, e.clearKey_kl]
    split
    · exact zeroFrom_zeros _ _
    · exact h.keyTail
  absentSalt := by simpa using h.absentSalt
  absentPers := by simpa using h.absentPers

/-- R226: the parameters that CLEAR_SALT leaves are valid: a salt that is absent stays zero. -/
theorem Engine.clearSalt_params_valid {V : Variant} {e : Engine V} (h : e.params.Valid) : e.clearSalt.params.Valid where
  configured := by simpa using h.configured
  digestLength := by simpa using h.digestLength
  digestBound := by simpa using h.digestBound
  keyBound := by simpa using h.keyBound
  keyTail := by simpa using h.keyTail
  absentSalt hs := by
    have hs : e.params.saltp = false := by simpa using hs
    simp [hs, h.absentSalt hs]
  absentPers := by simpa using h.absentPers

/-- R222: CLEAR_KEY keeps the invariants of a configured engine. -/
theorem Engine.Inv.clearKey {V : Variant} {e : Engine V} (h : e.Inv) (hc : e.params.configured = true) :
    e.clearKey.Inv := by
  have hz : zeroFrom e.clearKey.hash.buf e.clearKey.hash.cur := by
    rw [e.clearKey_buf, e.clearKey_cur]
    split
    · exact zeroFrom_zeros _ _
    · exact h.bufferTail
  exact Engine.inv_of_valid (Engine.clearKey_params_valid (h.valid hc)) hz (by simpa using h.cursor)
    (by simpa using h.flag) (by simpa using h.outputLength) (by simpa using h.outputTail) (by simpa using h.errorCode)
    (by simpa using h.errorSticky)

/-- R226: CLEAR_SALT keeps the invariants of a configured engine. -/
theorem Engine.Inv.clearSalt {V : Variant} {e : Engine V} (h : e.Inv) (hc : e.params.configured = true) :
    e.clearSalt.Inv :=
  Engine.inv_of_valid (Engine.clearSalt_params_valid (h.valid hc)) (by simpa using h.bufferTail)
    (by simpa using h.cursor) (by simpa using h.flag) (by simpa using h.outputLength) (by simpa using h.outputTail)
    (by simpa using h.errorCode) (by simpa using h.errorSticky)

/-- R45: a command that has an effect keeps the invariants. -/
theorem Engine.Inv.effect {V : Variant} {e x : Engine V} {i : Instr} (h : e.Inv) (hx : e.effect i = .ok x) : x.Inv := by
  cases Engine.effect_ok hx with
  | configure d k hd =>
    obtain ⟨h1, hd, hk⟩ := configureChecks_ok hd
    exact h.commit h1 hd hk
  | absorbByte b hc => exact h.absorbByte hc b
  | absorb n hc => exact h.absorbBytes hc _
  | finalize hc => exact h.finalize hc
  | reset hc => exact h.reinit hc
  | clearKey hc => exact h.clearKey hc
  | clearSalt hc => exact h.clearSalt hc

/-- R45: every move of a step keeps the invariants. -/
theorem StepMove.inv {V : Variant} {e e' : Engine V} {turn : Turn} (hm : StepMove e turn e') (h : e.Inv) : e'.Inv := by
  cases hm with
  | stay => exact h
  | write r x => exact h.writeReg r x
  | done i x _ _ _ hx => exact (h.effect hx).succeed
  | failed E => exact h.raise E
  | reset => exact Engine.reset_inv V

/-- Settles O2: every move of a step keeps the invariants, a command's effect by its own lemma. -/
theorem everyStepKeepsInvariants : Obligations.EveryStepKeepsInvariants := by
  intro s t h hs
  obtain ⟨e', hs', rfl, hm⟩ := step_move hs
  exact hm.inv h

/-- Settles O1: reset blanks the engine. -/
theorem resetStateMeetsInvariants : Obligations.ResetStateMeetsInvariants := fun V => Engine.reset_inv V

end Sys2Proof.Machine
end

section
/-!
PROOFS. What a command's effect does to each group of the state (R230, R242), and from it the rules on single steps:
`sticky`, `configured`, the retained parameters, the counter, the output and the staging registers.
-/

namespace Sys2Proof.Machine

/-- R222, R226: a command's effect leaves the staging registers, but for the two clears. -/
theorem Engine.effect_staging {V : Variant} {e x : Engine V} {i : Instr} (h : e.effect i = .ok x) :
    x.staging = e.staging ∨ (i = .clearKey ∧ x.staging = { e.staging with keys := zeros 64 }) ∨
    (i = .clearSalt ∧ x.staging = { e.staging with salts := zeros 16 }) := by
  cases Engine.effect_ok h with
  | configure | finalize | reset => exact .inl rfl
  | absorbByte b => exact .inl (e.absorbByte_staging b)
  | absorb n => exact .inl (e.absorbBytes_staging _)
  | clearKey => exact .inr (.inl ⟨rfl, e.clearKey_staging⟩)
  | clearSalt => exact .inr (.inr ⟨rfl, e.clearSalt_staging⟩)

/-- R42: a command's effect leaves the output, but for CONFIGURE and FINALIZE. -/
theorem Engine.effect_output {V : Variant} {e x : Engine V} {i : Instr} (h : e.effect i = .ok x) :
    x.output = e.output ∨ i = .configure ∨ i = .finalize := by
  cases Engine.effect_ok h with
  | configure => exact .inr (.inl rfl)
  | finalize => exact .inr (.inr rfl)
  | absorbByte b => exact .inl (e.absorbByte_output b)
  | absorb n => exact .inl (e.absorbBytes_output _)
  | reset => exact .inl rfl
  | clearKey => exact .inl e.clearKey_output
  | clearSalt => exact .inl e.clearSalt_output

/-- R29: the parameters after the effect of a command other than CONFIGURE: they stay, but that CLEAR_KEY may zero the
retained key and CLEAR_SALT the retained salt. -/
theorem Engine.effect_params {V : Variant} {e x : Engine V} {i : Instr} (h : e.effect i = .ok x) :
    i = .configure ∨ x.params = e.params ∨ (i = .clearKey ∧ x.params = { e.params with keyr := zeros _ }) ∨
    (i = .clearSalt ∧ x.params = { e.params with saltr := zeros _ }) := by
  cases Engine.effect_ok h with
  | configure => exact .inl rfl
  | absorbByte b => exact .inr (.inl (e.absorbByte_params b))
  | absorb n => exact .inr (.inl (e.absorbBytes_params _))
  | finalize | reset => exact .inr (.inl rfl)
  | clearKey =>
    unfold Engine.clearKey
    split
    · exact .inr (.inr (.inl ⟨rfl, rfl⟩))
    · exact .inr (.inl rfl)
  | clearSalt =>
    unfold Engine.clearSalt
    split
    · exact .inr (.inr (.inr ⟨rfl, rfl⟩))
    · exact .inr (.inl rfl)

/-- R40: a command that has an effect leaves `configured` set; but for CONFIGURE, it was set before. -/
theorem Engine.effect_configured {V : Variant} {e x : Engine V} {i : Instr} (h : e.effect i = .ok x) :
    x.params.configured = true ∧ (i = .configure ∨ e.params.configured = true) := by
  cases Engine.effect_ok h with
  | configure => exact ⟨rfl, .inl rfl⟩
  | absorbByte b hc => exact ⟨by simpa using hc, .inr hc⟩
  | absorb n hc => exact ⟨by simpa using hc, .inr hc⟩
  | finalize hc => exact ⟨hc, .inr hc⟩
  | reset hc => exact ⟨hc, .inr hc⟩
  | clearKey hc => exact ⟨by simpa using hc, .inr hc⟩
  | clearSalt hc => exact ⟨by simpa using hc, .inr hc⟩

/-- R202: a string of at most a block adds a block to the counter at most once: after a compression the cursor is 1 and
the rest fits. -/
theorem Engine.absorbBytes_t {V : Variant} {bs : List Byte} {e : Engine V} (h : bs.length ≤ V.blockBytes) :
    (e.absorbBytes bs).hash.t = e.hash.t ∨ (e.absorbBytes bs).hash.t = ctrAdd e.hash.t V.blockBytes := by
  induction bs generalizing e with
  | nil => exact .inl rfl
  | cons b bs ih =>
    rw [List.length_cons] at h
    rw [Engine.absorbBytes_cons]
    by_cases hf : e.hash.cur = V.blockBytes
    · have hcur : (e.absorbByte b).hash.cur = 1 := by rw [e.absorbByte_cur, if_pos hf]
      obtain ⟨buf, hrest, -⟩ := Engine.absorbBytes_fits bs (e.absorbByte b) (by omega)
      right
      rw [hrest]
      show (e.absorbByte b).hash.t = _
      rw [e.absorbByte_t, if_pos hf]
    · have ht : (e.absorbByte b).hash.t = e.hash.t := by rw [e.absorbByte_t, if_neg hf]
      rw [← ht]
      exact ih (by omega)

/-- R26: a command's effect leaves the counter, adds a block to it, or zeroes it. -/
theorem Engine.effect_t {V : Variant} {e x : Engine V} {i : Instr} (h : e.effect i = .ok x) :
    x.hash.t = e.hash.t ∨ x.hash.t = ctrAdd e.hash.t V.blockBytes ∨ x.hash.t = 0 := by
  cases Engine.effect_ok h with
  | configure | finalize | reset => exact .inr (.inr rfl)
  | absorbByte b =>
    rw [e.absorbByte_t]
    split
    · exact .inr (.inl rfl)
    · exact .inl rfl
  | absorb n _ hn =>
    exact (Engine.absorbBytes_t ((List.length_take_le n _).trans hn)).imp_right .inl
  | clearKey => exact .inl e.clearKey_t
  | clearSalt => exact .inl (congrArg HashState.t e.clearSalt_hash)

/-! The rules on single steps: each move of a step in turn. -/

/-- Settles O4: on the engine's turn, an effect keeps `sticky` and ends with code 0, and an error sets it. -/
theorem stickySetByErrorsClearedByResetOnly : Obligations.StickySetByErrorsClearedByResetOnly := by
  rintro ⟨V, e, hs⟩ t h
  obtain ⟨e', hs', rfl, hm⟩ := step_move h
  cases hm with
  | stay _ hidle => exact ⟨fun _ hst => hst, fun ht hb => nomatch hb.symm.trans (hidle ht)⟩
  | write r x hh => exact ⟨fun _ hst => by simpa using hst, fun ht => nomatch hh.symm.trans ht⟩
  | done i x _ _ _ hx => simp [Engine.effect_latch hx]
  | failed E _ _ hE => exact ⟨fun _ _ => rfl, fun _ _ => ⟨fun _ => .inr (mt E.code_eq_zero.1 hE), fun _ => rfl⟩⟩
  | reset hr => exact ⟨fun hn => absurd hr hn, fun ht => nomatch hr.symm.trans ht⟩

/-- Settles O5: an effect keeps `configured`, and while it is clear only CONFIGURE has an effect. -/
theorem configuredSetByConfigureClearedByResetOnly : Obligations.ConfiguredSetByConfigureClearedByResetOnly := by
  rintro ⟨V, e, hs⟩ t h
  obtain ⟨e', hs', rfl, hm⟩ := step_move h
  cases hm with
  | stay => exact ⟨fun _ hc => hc, fun hn hc => nomatch hn.symm.trans hc⟩
  | write r x => simp +contextual
  | done i x ht hb hd hx =>
    obtain ⟨hc, hi⟩ := Engine.effect_configured hx
    refine ⟨fun _ _ => hc, fun hn _ => ⟨ht, hb, ?_, rfl⟩⟩
    obtain rfl | hc := hi
    · exact (encode_of_decodeWord hd).symm
    · exact nomatch hn.symm.trans hc
  | failed E => exact ⟨fun _ hc => hc, fun hn hc => nomatch hn.symm.trans hc⟩
  | reset hr => exact ⟨fun hn => absurd hr hn, fun _ => nofun⟩

/-- Settles O6: only a command's effect touches the parameters, and `Engine.effect_params` says how. -/
theorem retainedParametersChangeOnlyAsListed : Obligations.RetainedParametersChangeOnlyAsListed := by
  intro V e e' hs hs' h hr hcfg
  cases step_move_mk h with
  | stay => simp
  | write r x => simp
  | done i x ht hb hd hx =>
    have hw := (encode_of_decodeWord hd).symm
    obtain rfl | hp | ⟨rfl, hp⟩ | ⟨rfl, hp⟩ := Engine.effect_params hx
    · exact absurd ⟨ht, hb, hw, rfl⟩ hcfg
    · simp [hp]
    · simp [hp, ht, hb, show e.latch.pend = 6#32 from hw]
    · simp [hp, ht, hb, show e.latch.pend = 7#32 from hw]
  | failed E => simp
  | reset hR => exact absurd hR hr

/-- Settles O7: the counter is written by a command's effect and by hardware reset alone. -/
theorem counterStaysAddsBlockOrZero : Obligations.CounterStaysAddsBlockOrZero := by
  intro V e e' hs hs' h
  cases step_move_mk h with
  | stay => exact .inl rfl
  | write r x => exact .inl (by simp)
  | done i x _ _ _ hx => simpa using Engine.effect_t hx
  | failed E => exact .inl rfl
  | reset => exact .inr (.inr rfl)

/-- Settles O8: the output is written by the effect of CONFIGURE or FINALIZE and by hardware reset alone. -/
theorem digestOutputLifetime : Obligations.DigestOutputLifetime := by
  rintro ⟨V, e, hs⟩ t h hne
  obtain ⟨e', hs', rfl, hm⟩ := step_move h
  cases hm with
  | stay => exact absurd rfl hne
  | write r x => exact absurd (by simp) hne
  | done i x ht hb hd hx =>
    refine .inr ⟨ht, hb, rfl, ?_⟩
    have hw := (encode_of_decodeWord hd).symm
    obtain ho | rfl | rfl := Engine.effect_output hx
    · exact absurd ho hne
    · exact .inl hw
    · exact .inr hw
  | failed E => exact absurd rfl hne
  | reset hr => exact .inl hr

/-- Settles O9: of the moves on the engine's turn only the effects of the clears write the staging. -/
theorem completionLeavesStaging : Obligations.CompletionLeavesStaging := by
  intro V e e' hs hs' h ht
  cases step_move_mk h with
  | stay => exact .inl rfl
  | write r x hh => exact nomatch hh.symm.trans ht
  | done i x _ _ hd hx =>
    have hw := (encode_of_decodeWord hd).symm
    obtain hst | ⟨rfl, hst⟩ | ⟨rfl, hst⟩ := Engine.effect_staging hx
    · exact .inl hst
    · exact .inr (.inl ⟨hw, hst⟩)
    · exact .inr (.inr ⟨hw, hst⟩)
  | failed E => exact .inl rfl
  | reset hr => exact nomatch hr.symm.trans ht

end Sys2Proof.Machine
end

section
/-!
PROOFS. What a host can read (R48): no register depends on the secrets, no step depends on `v` and `m`, and the values of
the read-only registers as numbers.
-/

namespace Sys2Proof.Machine

/-! What reading a register depends on (R48). -/

/-- Settles O44: each register's value is a function of what the two engines have in common. -/
theorem registersRevealNoSecret : Obligations.RegistersRevealNoSecret := by
  intro V a b r h
  obtain ⟨hcfg, hcfglen, hperss, hinbuf, hbusy, herr, hsticky, hconf, hdl, hkl, hsaltp, hpersp, ht, hcur, hout⟩ := h
  have hphase : a.phase = b.phase := by simp only [Engine.phase, hconf, hcur, ht]
  cases r with
  | cfg => exact hcfg
  | cfglen => exact hcfglen
  | status => simp only [Engine.readReg, Engine.status, hpersp, hsaltp, hkl, hcur, herr, hphase, hsticky, hbusy]
  | outlen => simp only [Engine.readReg, Engine.outlenReg, hout]
  | param => simp only [Engine.readReg, Engine.paramReg, hkl, hdl]
  | counter k => simp only [Engine.readReg, ht]
  | pers j => simp only [Engine.readReg, hperss]
  | inbuf j => simp only [Engine.readReg, hinbuf]
  | dout j => simp only [Engine.readReg, hout]
  | id | cmd | key | salt | reserved => rfl

/-! Engines that differ in `v` and `m` alone (R24, R25). -/

/-- An engine that differs from `a` in `v` and `m` alone is `a` with another scratch. -/
theorem Engine.SameButScratch.eq {V : Variant} {a b : Engine V} (h : a.SameButScratch b) :
    b = { a with scratch := b.scratch } := by
  obtain ⟨hst, hl, hp, hh, ho⟩ := h
  rw [hst, hl, hp, hh, ho]

/-- No engine differs from itself. -/
theorem Engine.SameButScratch.refl {V : Variant} (e : Engine V) : e.SameButScratch e := ⟨rfl, rfl, rfl, rfl, rfl⟩

/-- R48: registers read the same of engines that differ in `v` and `m` alone. -/
theorem Engine.SameButScratch.readReg {V : Variant} {a b : Engine V} (h : a.SameButScratch b) (r : Reg) :
    a.readReg r = b.readReg r := by
  rw [h.eq]
  exact registersRevealNoSecret V a _ r ⟨rfl, rfl, rfl, rfl, rfl, rfl, rfl, rfl, rfl, rfl, rfl, rfl, rfl, rfl, rfl⟩

/-- R69, R72: a register write does not read `v` and `m`. -/
theorem Engine.SameButScratch.writeReg {V : Variant} {a b : Engine V} (h : a.SameButScratch b) (r : Reg)
    (x : BitVec 32) : (a.writeReg r x).SameButScratch (b.writeReg r x) := by
  rw [h.eq]
  cases r <;> exact ⟨rfl, rfl, rfl, rfl, rfl⟩

/-- R275: success does not read them. -/
theorem Engine.SameButScratch.succeed {V : Variant} {a b : Engine V} (h : a.SameButScratch b) :
    a.succeed.SameButScratch b.succeed := by
  rw [h.eq]; exact ⟨rfl, rfl, rfl, rfl, rfl⟩

/-- R243: nor does an error. -/
theorem Engine.SameButScratch.raise {V : Variant} {a b : Engine V} (h : a.SameButScratch b) (E : ErrCode) :
    (a.raise E).SameButScratch (b.raise E) := by
  rw [h.eq]; exact ⟨rfl, rfl, rfl, rfl, rfl⟩

/-- R200: nor does a Reinit. -/
theorem Engine.SameButScratch.reinit {V : Variant} {a b : Engine V} (h : a.SameButScratch b) :
    a.reinit.SameButScratch b.reinit := by
  rw [h.eq]; exact ⟨rfl, rfl, rfl, rfl, rfl⟩

/-- R214: nor does FINALIZE, whose compression writes `v` and `m` before it reads them. -/
theorem Engine.SameButScratch.finalize {V : Variant} {a b : Engine V} (h : a.SameButScratch b) :
    a.finalize.SameButScratch b.finalize := by
  rw [h.eq]; exact ⟨rfl, rfl, rfl, rfl, rfl⟩

/-- R150: nor does CONFIGURE's commit. -/
theorem Engine.SameButScratch.commit {V : Variant} {a b : Engine V} (h : a.SameButScratch b) (d k : Nat) :
    (a.commit d k).SameButScratch (b.commit d k) := by
  rw [h.eq]; exact ⟨rfl, rfl, rfl, rfl, rfl⟩

/-- R201: nor does absorbing a byte, whose compression writes `v` and `m` first. -/
theorem Engine.SameButScratch.absorbByte {V : Variant} {a b : Engine V} (h : a.SameButScratch b) (x : Byte) :
    (a.absorbByte x).SameButScratch (b.absorbByte x) := by
  by_cases hf : a.hash.cur = V.blockBytes
  · rw [a.absorbByte_full x hf, b.absorbByte_full x (h.hash ▸ hf), h.eq]
    exact ⟨rfl, rfl, rfl, rfl, rfl⟩
  · rw [a.absorbByte_room x hf, b.absorbByte_room x (h.hash ▸ hf), h.eq]
    exact ⟨rfl, rfl, rfl, rfl, rfl⟩

/-- R206: nor does absorbing a string. -/
theorem Engine.SameButScratch.absorbBytes {V : Variant} {a b : Engine V} (h : a.SameButScratch b) (bs : List Byte) :
    (a.absorbBytes bs).SameButScratch (b.absorbBytes bs) := by
  induction bs generalizing a b with
  | nil => exact h
  | cons x bs ih => exact ih (h.absorbByte x)

/-- R222: nor does CLEAR_KEY. -/
theorem Engine.SameButScratch.clearKey {V : Variant} {a b : Engine V} (h : a.SameButScratch b) :
    a.clearKey.SameButScratch b.clearKey := by
  rw [h.eq]
  unfold Engine.clearKey
  split <;> exact ⟨rfl, rfl, rfl, rfl, rfl⟩

/-- R226: nor does CLEAR_SALT. -/
theorem Engine.SameButScratch.clearSalt {V : Variant} {a b : Engine V} (h : a.SameButScratch b) :
    a.clearSalt.SameButScratch b.clearSalt := by
  rw [h.eq]
  unfold Engine.clearSalt
  split <;> exact ⟨rfl, rfl, rfl, rfl, rfl⟩

/-- Two effects that are the same error, or engines that differ in `v` and `m` alone. -/
def EffectsSameButScratch {V : Variant} : Except ErrCode (Engine V) → Except ErrCode (Engine V) → Prop
  | .ok a, .ok b => a.SameButScratch b
  | .error E, .error F => E = F
  | _, _ => False

/-- R96: the check of `configured` does not read `v` and `m`. -/
theorem Engine.SameButScratch.whenConfigured {V : Variant} {a b : Engine V} (h : a.SameButScratch b)
    {x y : Except ErrCode (Engine V)} (hxy : EffectsSameButScratch x y) :
    EffectsSameButScratch (a.whenConfigured x) (b.whenConfigured y) := by
  unfold Engine.whenConfigured
  rw [h.params]
  split
  · exact hxy
  · exact rfl

/-- No command's effect reads `v` and `m`. -/
theorem Engine.SameButScratch.effect {V : Variant} {a b : Engine V} (h : a.SameButScratch b) (i : Instr) :
    EffectsSameButScratch (a.effect i) (b.effect i) := by
  cases i with
  | configure =>
    show EffectsSameButScratch a.configure b.configure
    unfold Engine.configure
    rw [h.staging]
    split
    · exact rfl
    · exact h.commit _ _
  | absorbByte x => exact h.whenConfigured (h.absorbByte x)
  | absorb n =>
    refine h.whenConfigured ?_
    unfold Engine.absorb
    split
    · exact rfl
    · rw [h.staging]; exact h.absorbBytes _
  | finalize => exact h.whenConfigured h.finalize
  | reset => exact h.whenConfigured h.reinit
  | clearKey => exact h.whenConfigured h.clearKey
  | clearSalt => exact h.whenConfigured h.clearSalt

/-- R275: nor does its completion. -/
theorem Engine.SameButScratch.finish {V : Variant} {a b : Engine V} (h : a.SameButScratch b)
    {x y : Except ErrCode (Engine V)} (hxy : EffectsSameButScratch x y) :
    (a.finish x).SameButScratch (b.finish y) := by
  match x, y, hxy with
  | .ok _, .ok _, hxy => exact hxy.succeed
  | .error E, .error _, rfl => exact h.raise E

/-- Two next states with the same host's side, whose engines differ in `v` and `m` alone. -/
theorem Engine.SameButScratch.next {V : Variant} {a b : Engine V} (h : a.SameButScratch b) (hs : HostSide) :
    Machine.SameButScratch (.next ⟨V, a, hs⟩) (.next ⟨V, b, hs⟩) := ⟨V, a, b, hs, rfl, rfl, h⟩

/-- R275: the completion step, or the idle turn, of engines that differ in `v` and `m` alone. -/
theorem Engine.SameButScratch.engineStep {V : Variant} {a b : Engine V} (h : a.SameButScratch b) (hs : HostSide) :
    Machine.SameButScratch (engineStep ⟨V, a, hs⟩) (engineStep ⟨V, b, hs⟩) := by
  unfold Machine.engineStep
  dsimp only
  rw [h.latch]
  split
  · split
    · rw [exec_mk, exec_mk]
      exact (h.finish (h.effect _)).next hs
    · exact (h.raise _).next hs
  · exact h.next hs

/-- R48: a host read returns the same value, or raises the same fault. -/
theorem Engine.SameButScratch.readValue {V : Variant} {a b : Engine V} (h : a.SameButScratch b) (hs : HostSide)
    (off width : Nat) : State.readValue ⟨V, a, hs⟩ off width = State.readValue ⟨V, b, hs⟩ off width := by
  rw [State.readValue_mk, State.readValue_mk, h.latch, h.readReg]

/-- R70: a host read of engines that differ in `v` and `m` alone. -/
theorem Engine.SameButScratch.hostRead {V : Variant} {a b : Engine V} (h : a.SameButScratch b) (hs : HostSide)
    (off width : Nat) : Machine.SameButScratch (hostRead ⟨V, a, hs⟩ off width) (hostRead ⟨V, b, hs⟩ off width) := by
  unfold Machine.hostRead
  rw [h.readValue]
  split
  · rw [State.recordRead_mk, State.recordRead_mk, h.latch]
    exact h.next _
  · exact rfl

/-- R69, R71: a host write on engines that differ in `v` and `m` alone. -/
theorem Engine.SameButScratch.hostWrite {V : Variant} {a b : Engine V} (h : a.SameButScratch b) (hs : HostSide)
    (off width : Nat) (x : BitVec 32) :
    Machine.SameButScratch (hostWrite ⟨V, a, hs⟩ off width x) (hostWrite ⟨V, b, hs⟩ off width x) := by
  rw [hostWrite_mk, hostWrite_mk, h.latch]
  split
  · exact h.next hs
  · split
    · exact rfl
    · split
      · exact rfl
      · exact (h.writeReg _ x).next _

/-- R103: one pass of the WAIT loop on engines that differ in `v` and `m` alone. -/
theorem Engine.SameButScratch.hostPoll {V : Variant} {a b : Engine V} (h : a.SameButScratch b) (hs : HostSide)
    (rest : List HostOp) : Machine.SameButScratch (hostPoll ⟨V, a, hs⟩ rest) (hostPoll ⟨V, b, hs⟩ rest) := by
  cases hb : b.latch.busy with
  | false =>
    rw [hostPoll_idle hs rest hb, hostPoll_idle hs rest (h.latch ▸ hb),
      show a.status = b.status from h.readReg .status]
    exact h.next _
  | true =>
    rw [hostPoll_busy hs rest hb, hostPoll_busy hs rest (h.latch ▸ hb)]
    exact h.next _

/-- R74: the host's next operation on engines that differ in `v` and `m` alone. -/
theorem Engine.SameButScratch.hostStep {V : Variant} {a b : Engine V} (h : a.SameButScratch b) (hs : HostSide) :
    Machine.SameButScratch (hostStep ⟨V, a, hs⟩) (hostStep ⟨V, b, hs⟩) := by
  unfold Machine.hostStep
  dsimp only
  split
  · exact h.next hs
  · exact h.hostRead _ _ _
  · exact h.hostWrite _ _ _ _
  · exact h.hostPoll hs _

/-- Settles O10: whoever's turn it is, the move neither reads `v` and `m` nor stops because of them. -/
theorem workingStateNeverReachesAnythingElse : Obligations.WorkingStateNeverReachesAnythingElse := by
  intro V a b hs h
  have hturn : State.turn ⟨V, a, hs⟩ = State.turn ⟨V, b, hs⟩ := by simp only [State.turn, h.latch]
  unfold step
  rw [hturn]
  cases State.turn ⟨V, b, hs⟩ with
  | host => exact h.hostStep _
  | engine => exact h.engineStep _
  | hardwareReset => exact (Engine.SameButScratch.refl (Engine.reset V)).next _

/-! What the read-only registers read as (R31, R35 to R40). -/

/-- R38: 32 bits of the counter; those beyond its width are 0, as the quotient says too. -/
theorem counterReg_toNat {V : Variant} (t : Counter V) (k : Nat) :
    (counterReg t k).toNat = t.toNat / 2 ^ (32 * k) % 2 ^ 32 := by
  unfold counterReg
  split
  · simp [BitVec.extractLsb'_toNat, Nat.shiftRight_eq_div_pow]
  · rename_i hk
    have ht : t.toNat < 2 ^ (32 * k) := t.isLt.trans_le (Nat.pow_le_pow_right (by decide) (Nat.le_of_not_lt hk))
    simp [Nat.div_eq_of_lt ht]

/-- R31: the ID register as a number. -/
theorem idReg_toNat (V : Variant) :
    (idReg V).toNat = V.wordBits + 2 ^ 8 * V.blockBytes + 2 ^ 16 * V.maxDigest + 2 ^ 24 * V.rounds := by
  cases V <;> decide

/-- R36: OUTLEN as a number. -/
theorem Engine.outlenReg_toNat {V : Variant} {e : Engine V} (h : e.output.outlen < 256) :
    e.outlenReg.toNat = e.output.outlen := by
  simp only [Engine.outlenReg, toNat_append_eq, BitVec.ofNat_eq_ofNat, BitVec.toNat_ofNat]
  omega

/-- R37: PARAM as a number. -/
theorem Engine.paramReg_toNat {V : Variant} {e : Engine V} (hd : e.params.dl < 256) (hk : e.params.kl < 256) :
    e.paramReg.toNat = e.params.dl + 256 * e.params.kl := by
  simp only [Engine.paramReg, toNat_append_eq, BitVec.ofNat_eq_ofNat, BitVec.toNat_ofNat]
  omega

/-- R40: STATUS.STATE as a number. -/
theorem Engine.phase_toNat {V : Variant} (e : Engine V) : e.phase.code.toNat =
    if e.params.configured then (if e.hash.cur = 0 ∧ e.hash.t = 0 then 1 else 2) else 0 := by
  unfold Engine.phase
  cases e.params.configured
  · rfl
  · by_cases h : e.hash.cur = 0 ∧ e.hash.t = 0
    · simp only [h, if_true]; rfl
    · simp only [h, if_true, if_false]; rfl

/-- R35: STATUS as a number, its fields weighted by their positions. -/
theorem Engine.status_toNat {V : Variant} {e : Engine V} (h : e.hash.cur ≤ V.blockBytes) : e.status.toNat =
    (if e.latch.busy then 1 else 0) + 2 * (if e.latch.sticky then 1 else 0)
      + 4 * (if e.params.configured then (if e.hash.cur = 0 ∧ e.hash.t = 0 then 1 else 2) else 0)
      + 16 * e.latch.err.toNat + 256 * e.hash.cur + 65536 * (if 0 < e.params.kl then 1 else 0)
      + 131072 * (if e.params.saltp then 1 else 0) + 262144 * (if e.params.persp then 1 else 0) := by
  have hbit (c : Bool) : (BitVec.ofBool c).toNat = if c then 1 else 0 := by cases c <;> rfl
  have hcur : e.hash.cur % 2 ^ 8 = e.hash.cur := Nat.mod_eq_of_lt (by have := variant_sizes V; omega)
  simp only [Engine.status, toNat_append_eq, hbit, BitVec.ofNat_eq_ofNat, BitVec.toNat_ofNat, hcur,
    Engine.phase_toNat, decide_eq_true_eq]
  omega

/-- Settles O45: one lemma for each computed register; the others read 0. -/
theorem readOnlyRegisterValues : Obligations.ReadOnlyRegisterValues := fun V e hcur hout hdl hkl =>
  ⟨e.status_toNat hcur, idReg_toNat V, Engine.outlenReg_toNat hout, Engine.paramReg_toNat hdl hkl,
    fun k => counterReg_toNat e.hash.t k, rfl, fun _ => rfl, fun _ => rfl, rfl⟩

end Sys2Proof.Machine
end

section
/-!
PROOFS. The registers of the host's window (20_memory.md): where each stands, how byte arrays are packed, what a write
leaves in the staging, and what a read returns after it.
-/

namespace Sys2Proof.Machine

/-! The register map (R62). -/

/-- R62: the window offset of a register. `.reserved` names many offsets, so every lemma excludes it and its 0 is no claim. -/
def Reg.offset : Reg → Nat
  | .id => 0x000
  | .cfg => 0x004
  | .cfglen => 0x008
  | .cmd => 0x00C
  | .status => 0x010
  | .outlen => 0x014
  | .param => 0x018
  | .counter k => 0x020 + 4 * k.val
  | .key j => 0x040 + 4 * j.val
  | .salt j => 0x080 + 4 * j.val
  | .pers j => 0x090 + 4 * j.val
  | .inbuf j => 0x100 + 4 * j.val
  | .dout j => 0x180 + 4 * j.val
  | .reserved => 0

/-- R62: a register is the one at its offset. -/
theorem regAt_offset (r : Reg) (hr : r ≠ .reserved) : regAt r.offset = r := by
  cases r with
  | counter k => revert k; decide
  | key j => revert j; decide
  | salt j => revert j; decide
  | pers j => revert j; decide
  | inbuf j => revert j; decide
  | dout j => revert j; decide
  | reserved => exact absurd rfl hr
  | id | cfg | cfglen | cmd | status | outlen | param => rfl

/-- R63: an aligned offset that is no register's is reserved. -/
theorem regAt_reserved {off : Nat} (ha : off % 4 = 0) (h : ∀ r : Reg, r ≠ .reserved → off ≠ r.offset) :
    regAt off = .reserved := by
  have hcounter : ¬ (0x020 ≤ off ∧ off < 0x030) := fun _ =>
    h (.counter ⟨(off - 0x020) / 4, by omega⟩) (by simp) (by simp only [Reg.offset]; omega)
  have hkey : ¬ (0x040 ≤ off ∧ off < 0x080) := fun _ =>
    h (.key ⟨(off - 0x040) / 4, by omega⟩) (by simp) (by simp only [Reg.offset]; omega)
  have hsalt : ¬ (0x080 ≤ off ∧ off < 0x090) := fun _ =>
    h (.salt ⟨(off - 0x080) / 4, by omega⟩) (by simp) (by simp only [Reg.offset]; omega)
  have hpers : ¬ (0x090 ≤ off ∧ off < 0x0A0) := fun _ =>
    h (.pers ⟨(off - 0x090) / 4, by omega⟩) (by simp) (by simp only [Reg.offset]; omega)
  have hinbuf : ¬ (0x100 ≤ off ∧ off < 0x180) := fun _ =>
    h (.inbuf ⟨(off - 0x100) / 4, by omega⟩) (by simp) (by simp only [Reg.offset]; omega)
  have hdout : ¬ (0x180 ≤ off ∧ off < 0x1C0) := fun _ =>
    h (.dout ⟨(off - 0x180) / 4, by omega⟩) (by simp) (by simp only [Reg.offset]; omega)
  rw [regAt, if_neg (show off ≠ 0x000 from h .id nofun), if_neg (show off ≠ 0x004 from h .cfg nofun),
    if_neg (show off ≠ 0x008 from h .cfglen nofun), if_neg (show off ≠ 0x00C from h .cmd nofun),
    if_neg (show off ≠ 0x010 from h .status nofun), if_neg (show off ≠ 0x014 from h .outlen nofun),
    if_neg (show off ≠ 0x018 from h .param nofun), dif_neg hcounter, dif_neg hkey, dif_neg hsalt, dif_neg hpers,
    dif_neg hinbuf, dif_neg hdout]

/-- R62: which aligned offset holds a register. -/
theorem regAt_eq_iff {off : Nat} {r : Reg} (ha : off % 4 = 0) (hr : r ≠ .reserved) : regAt off = r ↔ off = r.offset := by
  constructor
  · rintro rfl
    by_contra hoff
    refine hr (regAt_reserved ha fun r' hr' h => hoff ?_)
    rw [h, regAt_offset r' hr']
  · rintro rfl
    exact regAt_offset r hr

/-- Settles O41: each register is found at its offset; the reserved offsets are finitely many. -/
theorem registerMapOffsets : Obligations.RegisterMapOffsets :=
  ⟨regAt_offset .id nofun, regAt_offset .cfg nofun, regAt_offset .cfglen nofun, regAt_offset .cmd nofun,
    regAt_offset .status nofun, regAt_offset .outlen nofun, regAt_offset .param nofun, rfl,
    fun k => regAt_offset (.counter k) nofun, by decide, fun j => regAt_offset (.key j) nofun,
    fun j => regAt_offset (.salt j) nofun, fun j => regAt_offset (.pers j) nofun, by decide,
    fun j => regAt_offset (.inbuf j) nofun, fun j => regAt_offset (.dout j) nofun, by decide⟩

/-! Packed registers (R66). -/

/-- R66: byte lane `k` of a packed register is its byte of the array. -/
theorem packedReg_digit {n : Nat} (bs : Vector Byte n) (j k : Nat) (hk : k < 4) (h : 4 * j + k < n) :
    (packedReg bs j).toNat / 256 ^ k % 256 = bs[4 * j + k].toNat := by
  have hb : bs[4 * j + k].toNat = (bs[4 * j + k]?.getD 0).toNat := by simp [h]
  have h0 := (bs[4 * j]?.getD 0).isLt
  have h1 := (bs[4 * j + 1]?.getD 0).isLt
  have h2 := (bs[4 * j + 2]?.getD 0).isLt
  have h3 := (bs[4 * j + 3]?.getD 0).isLt
  rw [hb]
  simp only [packedReg, toNat_append_eq]
  match k, hk with
  | 0, _ => simp only [Nat.add_zero]; omega
  | 1, _ | 2, _ | 3, _ => omega

/-- R66: a byte of an array after a write of register `j`, by the digits of the value written. -/
theorem storeReg_digit {n : Nat} (bs : Vector Byte n) (j : Nat) (x : BitVec 32) (i : Nat) (h : i < n) :
    (storeReg bs j x)[i] = if i / 4 = j then BitVec.ofNat 8 (x.toNat / 256 ^ (i % 4)) else bs[i] := by
  rw [storeReg_getElem, lane_eq]

/-- R66, R69: a register of an array reads as the value last written to it, and as before where another was written. -/
theorem packedReg_storeReg {n : Nat} (bs : Vector Byte n) (i j : Nat) (x : BitVec 32) (h : 4 * i + 3 < n) :
    packedReg (storeReg bs j x) i = if i = j then x else packedReg bs i := by
  have hbyte (k : Nat) (hk : k < 4) : (storeReg bs j x)[4 * i + k]?.getD 0 =
      if i = j then lane x k else bs[4 * i + k]?.getD 0 := by
    have hn : 4 * i + k < n := by omega
    simp [hn, show (4 * i + k) / 4 = i by omega, show (4 * i + k) % 4 = k by omega]
  unfold packedReg
  rw [hbyte 3 (by decide), hbyte 2 (by decide), hbyte 1 (by decide),
    show (storeReg bs j x)[4 * i]?.getD 0 = _ from hbyte 0 (by decide)]
  split
  · exact lanes_append x
  · rfl

/-- Settles O43: a write stores the four digits of the value, and a read of a lane is the byte there. -/
theorem packedWritesAreLittleEndian : Obligations.PackedWritesAreLittleEndian := fun _ e x =>
  ⟨fun j => ⟨_, rfl, storeReg_digit e.staging.keys j x⟩, fun j => ⟨_, rfl, storeReg_digit e.staging.salts j x⟩,
    fun j => ⟨_, rfl, storeReg_digit e.staging.perss j x⟩, fun j => ⟨_, rfl, storeReg_digit e.staging.inbuf j x⟩,
    fun j k => packedReg_digit e.output.dout j k, fun j k => packedReg_digit e.staging.perss j k,
    fun j k => packedReg_digit e.staging.inbuf j k⟩

/-! A register write, element by element of the staging (R69, R66): each is written by its own register alone. -/

section
variable {V : Variant} (e : Engine V) (r : Reg) (x : BitVec 32)

/-- R69: a write to a register other than CMD changes the staging alone. -/
theorem Engine.writeReg_eq_staging (hr : r ≠ .cmd) :
    e.writeReg r x = { e with staging := (e.writeReg r x).staging } := by
  cases r with
  | cmd => exact absurd rfl hr
  | _ => rfl

theorem Engine.writeReg_cfg : (e.writeReg r x).staging.cfg = if r = .cfg then x else e.staging.cfg := by
  cases r <;> rfl

theorem Engine.writeReg_cfglen : (e.writeReg r x).staging.cfglen = if r = .cfglen then x else e.staging.cfglen := by
  cases r <;> rfl

theorem Engine.writeReg_keys (i : Nat) (h : i < 64) : (e.writeReg r x).staging.keys[i] =
    if r = .key ⟨i / 4, by omega⟩ then BitVec.ofNat 8 (x.toNat / 256 ^ (i % 4)) else e.staging.keys[i] := by
  cases r with
  | key j => exact (storeReg_digit e.staging.keys j x i h).trans (if_congr (by simp [Fin.ext_iff, eq_comm]) rfl rfl)
  | _ => rfl

theorem Engine.writeReg_salts (i : Nat) (h : i < 16) : (e.writeReg r x).staging.salts[i] =
    if r = .salt ⟨i / 4, by omega⟩ then BitVec.ofNat 8 (x.toNat / 256 ^ (i % 4)) else e.staging.salts[i] := by
  cases r with
  | salt j => exact (storeReg_digit e.staging.salts j x i h).trans (if_congr (by simp [Fin.ext_iff, eq_comm]) rfl rfl)
  | _ => rfl

theorem Engine.writeReg_perss (i : Nat) (h : i < 16) : (e.writeReg r x).staging.perss[i] =
    if r = .pers ⟨i / 4, by omega⟩ then BitVec.ofNat 8 (x.toNat / 256 ^ (i % 4)) else e.staging.perss[i] := by
  cases r with
  | pers j => exact (storeReg_digit e.staging.perss j x i h).trans (if_congr (by simp [Fin.ext_iff, eq_comm]) rfl rfl)
  | _ => rfl

theorem Engine.writeReg_inbuf (i : Nat) (h : i < 128) : (e.writeReg r x).staging.inbuf[i] =
    if r = .inbuf ⟨i / 4, by omega⟩ then BitVec.ofNat 8 (x.toNat / 256 ^ (i % 4)) else e.staging.inbuf[i] := by
  cases r with
  | inbuf j => exact (storeReg_digit e.staging.inbuf j x i h).trans (if_congr (by simp [Fin.ext_iff, eq_comm]) rfl rfl)
  | _ => rfl

theorem Engine.packedReg_writeReg_perss (j : Fin 4) : packedReg (e.writeReg r x).staging.perss j =
    if r = .pers j then x else packedReg e.staging.perss j := by
  cases r with
  | pers i =>
    exact (packedReg_storeReg e.staging.perss j i x (by omega)).trans (if_congr (by simp [Fin.ext_iff, eq_comm]) rfl rfl)
  | _ => rfl

theorem Engine.packedReg_writeReg_inbuf (j : Fin 32) : packedReg (e.writeReg r x).staging.inbuf j =
    if r = .inbuf j then x else packedReg e.staging.inbuf j := by
  cases r with
  | inbuf i =>
    exact (packedReg_storeReg e.staging.inbuf j i x (by omega)).trans (if_congr (by simp [Fin.ext_iff, eq_comm]) rfl rfl)
  | _ => rfl

end

/-! Reading after a write (R69, R70). -/

/-- R30, R63: the registers of access type RW. -/
def Reg.readWrite : Reg → Bool
  | .cfg | .cfglen | .pers _ | .inbuf _ => true
  | _ => false

/-- R62: where the RW registers stand. -/
theorem readWrite_regAt_iff {off : Nat} (ha : off % 4 = 0) : (regAt off).readWrite = true ↔
    off = 0x004 ∨ off = 0x008 ∨ (0x090 ≤ off ∧ off < 0x0A0) ∨ (0x100 ≤ off ∧ off < 0x180) := by
  constructor
  · intro h
    have hoff := (regAt_eq_iff ha (r := regAt off) (by rintro hr; simp [hr, Reg.readWrite] at h)).1 rfl
    revert h hoff
    generalize regAt off = r
    cases r <;> simp [Reg.readWrite, Reg.offset] <;> omega
  · rintro (h | h | h | h)
    · rw [(regAt_eq_iff ha (r := .cfg) nofun).2 h]; rfl
    · rw [(regAt_eq_iff ha (r := .cfglen) nofun).2 h]; rfl
    · rw [(regAt_eq_iff ha (r := .pers ⟨(off - 0x090) / 4, by omega⟩) nofun).2 (by simp [Reg.offset]; omega)]; rfl
    · rw [(regAt_eq_iff ha (r := .inbuf ⟨(off - 0x100) / 4, by omega⟩) nofun).2 (by simp [Reg.offset]; omega)]; rfl

/-- R69, R70: after a write to a register other than CMD an RW register reads as the value written, and every other
register as before. -/
theorem Engine.readReg_writeReg {V : Variant} (e : Engine V) {r : Reg} (hr : r ≠ .cmd) (r' : Reg) (x : BitVec 32) :
    (e.writeReg r x).readReg r' = if r' = r ∧ r'.readWrite = true then x else e.readReg r' := by
  have hst := e.writeReg_eq_staging r x hr
  cases r' with
  | cfg => exact (e.writeReg_cfg r x).trans (if_congr (by simp [Reg.readWrite, eq_comm]) rfl rfl)
  | cfglen => exact (e.writeReg_cfglen r x).trans (if_congr (by simp [Reg.readWrite, eq_comm]) rfl rfl)
  | pers j => exact (e.packedReg_writeReg_perss r x j).trans (if_congr (by simp [Reg.readWrite, eq_comm]) rfl rfl)
  | inbuf j => exact (e.packedReg_writeReg_inbuf r x j).trans (if_congr (by simp [Reg.readWrite, eq_comm]) rfl rfl)
  | _ =>
    rw [if_neg (by simp [Reg.readWrite]), hst]
    rfl

end Sys2Proof.Machine
end

section
/-!
PROOFS. One host access on the host's turn, by what becomes of it (R61, R64, R69 to R72), and the statements on such steps.
-/

namespace Sys2Proof.Machine

section
variable {V : Variant} {e : Engine V} {hs : HostSide} {off width : Nat} {rest : List HostOp}
  (ht : State.turn ⟨V, e, hs⟩ = .host)
include ht

/-- R74: the host's turn, its next operation a read. -/
theorem step_read (hp : hs.program = .read off width :: rest) : step ⟨V, e, hs⟩ =
    hostRead ⟨V, e, { hs with program := rest, schedule := hs.schedule.tail }⟩ off width := by
  simp [step, ht, moveOf, hostStep, hp, State.takeTurn]

/-- R74: the host's turn, its next operation a write. -/
theorem step_write {x : BitVec 32} (hp : hs.program = .write off width x :: rest) : step ⟨V, e, hs⟩ =
    hostWrite ⟨V, e, { hs with program := rest, schedule := hs.schedule.tail }⟩ off width x := by
  simp [step, ht, moveOf, hostStep, hp, State.takeTurn]

/-- R61: a read outside the window leaves the engine and returns a free value. -/
theorem step_read_outside (hp : hs.program = .read off width :: rest) (hw : inWindow off = false) :
    step ⟨V, e, hs⟩ = .next ⟨V, e, { hs with
      program := rest, schedule := hs.schedule.tail, observed := hs.observed ++ [Config.outsideRead hs.draws]
      draws := hs.draws + 1, awaiting := awaitingAfterRead hs.awaiting off (Config.outsideRead hs.draws) }⟩ := by
  simp [step_read ht hp, hostRead, State.readValue_mk, State.recordRead_mk, hw]

/-- R64: a read in the window of a width or offset that is not admitted. -/
theorem step_read_fault (hp : hs.program = .read off width :: rest) (hw : inWindow off = true)
    (ha : admitted off width = false) : step ⟨V, e, hs⟩ = .fault (.busFault off width) := by
  simp [step_read ht hp, hostRead, State.readValue_mk, hw, ha]

/-- R71: an admitted read of a busy engine leaves it and returns a free value. -/
theorem step_read_busy (hp : hs.program = .read off width :: rest) (hw : inWindow off = true)
    (ha : admitted off width = true) (hb : e.latch.busy = true) :
    step ⟨V, e, hs⟩ = .next ⟨V, e, { hs with
      program := rest, schedule := hs.schedule.tail, observed := hs.observed ++ [busyValue (regAt off) hs.draws]
      draws := hs.draws + 1, awaiting := awaitingAfterRead hs.awaiting off (busyValue (regAt off) hs.draws) }⟩ := by
  simp [step_read ht hp, hostRead, State.readValue_mk, State.recordRead_mk, hw, ha, hb]

/-- R70: an admitted read of an idle engine returns the register's value. -/
theorem step_read_idle (hp : hs.program = .read off width :: rest) (hw : inWindow off = true)
    (ha : admitted off width = true) (hb : e.latch.busy = false) :
    step ⟨V, e, hs⟩ = .next ⟨V, e, { hs with
      program := rest, schedule := hs.schedule.tail, observed := hs.observed ++ [e.readReg (regAt off)]
      awaiting := awaitingAfterRead hs.awaiting off (e.readReg (regAt off)) }⟩ := by
  simp [step_read ht hp, hostRead, State.readValue_mk, State.recordRead_mk, hw, ha, hb]

variable {x : BitVec 32}

/-- R61: a write outside the window does not reach the engine. -/
theorem step_write_outside (hp : hs.program = .write off width x :: rest) (hw : inWindow off = false) :
    step ⟨V, e, hs⟩ = .next ⟨V, e, { hs with program := rest, schedule := hs.schedule.tail }⟩ := by
  rw [step_write ht hp, hostWrite_mk, if_pos hw]

/-- R64: a write in the window of a width or offset that is not admitted. -/
theorem step_write_fault (hp : hs.program = .write off width x :: rest) (hw : inWindow off = true)
    (ha : admitted off width = false) : step ⟨V, e, hs⟩ = .fault (.busFault off width) := by
  rw [step_write ht hp, hostWrite_mk, if_neg (by simp [hw]), if_pos ha]

/-- R71: an admitted write while busy. -/
theorem step_write_busy (hp : hs.program = .write off width x :: rest) (hw : inWindow off = true)
    (ha : admitted off width = true) (hb : e.latch.busy = true) :
    step ⟨V, e, hs⟩ = .fault (.hostWriteWhileBusy off) := by
  rw [step_write ht hp, hostWrite_mk, if_neg (by simp [hw]), if_neg (by simp [ha]), if_pos hb]

/-- R69, R72: an admitted write to an idle engine writes the register. -/
theorem step_write_idle (hp : hs.program = .write off width x :: rest) (hw : inWindow off = true)
    (ha : admitted off width = true) (hb : e.latch.busy = false) :
    step ⟨V, e, hs⟩ = .next ⟨V, e.writeReg (regAt off) x, { hs with
      program := rest, schedule := hs.schedule.tail, awaiting := awaitingAfterWrite hs.awaiting off }⟩ := by
  rw [step_write ht hp, hostWrite_mk, if_neg (by simp [hw]), if_neg (by simp [ha]), if_neg (by simp [hb])]

end

/-- Settles O42: the staging is what `writeReg` leaves, read element by element at the offset of each register. -/
theorem writeThenReadRegisters : Obligations.WriteThenReadRegisters := by
  intro V e off x hw ha hcmd
  have hoff : off % 4 = 0 := ((admitted_iff off 32).1 ha).2
  have hr : regAt off ≠ .cmd := fun h => hcmd ((regAt_eq_iff (r := .cmd) hoff nofun).1 h)
  have heq := e.writeReg_eq_staging (regAt off) x hr
  refine ⟨fun off' _ ha' => ?_, _, heq, fun hs rest ht hp hb => ?_, ?_, ?_, fun i hi => ?_, fun i hi => ?_, fun i hi => ?_,
    fun i hi => ?_⟩
  · have hoff' : off' % 4 = 0 := ((admitted_iff off' 32).1 ha').2
    rw [e.readReg_writeReg hr (regAt off') x]
    refine if_congr ⟨fun ⟨hsame, hrw⟩ => ?_, fun ⟨hsame, hrw⟩ => ?_⟩ rfl rfl
    · have hnr : regAt off ≠ .reserved := by rintro h; simp [hsame, h, Reg.readWrite] at hrw
      refine ⟨((regAt_eq_iff hoff' hnr).1 hsame).trans ((regAt_eq_iff hoff hnr).1 rfl).symm, ?_⟩
      exact (readWrite_regAt_iff hoff).1 (hsame ▸ hrw)
    · subst hsame
      exact ⟨rfl, (readWrite_regAt_iff hoff).2 hrw⟩
  · rw [step_write_idle ht hp hw ha hb, awaitingAfterWrite_eq, if_neg hcmd, ← heq]
  · exact (e.writeReg_cfg _ x).trans (if_congr (regAt_eq_iff hoff nofun) rfl rfl)
  · exact (e.writeReg_cfglen _ x).trans (if_congr (regAt_eq_iff hoff nofun) rfl rfl)
  · exact (e.writeReg_keys _ x i hi).trans (if_congr (regAt_eq_iff hoff nofun) rfl rfl)
  · exact (e.writeReg_salts _ x i hi).trans (if_congr (regAt_eq_iff hoff nofun) rfl rfl)
  · exact (e.writeReg_perss _ x i hi).trans (if_congr (regAt_eq_iff hoff nofun) rfl rfl)
  · exact (e.writeReg_inbuf _ x i hi).trans (if_congr (regAt_eq_iff hoff nofun) rfl rfl)

/-- Settles O47: at STATUS's offset the value read has bit 0 clear, since the engine is idle. -/
theorem idleReadsHaveNoSideEffect : Obligations.IdleReadsHaveNoSideEffect := by
  intro V e hs off rest ht hp hw ha hb
  have hawait : awaitingAfterRead hs.awaiting off (e.readReg (regAt off)) = if off = 0x010 then false else hs.awaiting := by
    rw [awaitingAfterRead_eq]
    refine if_congr ⟨fun h => h.1, fun h => ⟨h, ?_⟩⟩ rfl rfl
    subst h
    exact e.status_bit0.trans hb
  rw [step_read_idle ht hp hw ((admitted_iff off 32).2 ⟨rfl, ha⟩) hb, hawait]

/-- Settles O48: the value read is the busy value, whose bit 0 is set at STATUS's offset, so that no wait ends. -/
theorem busyAccesses : Obligations.BusyAccesses := by
  intro V e hs off rest ht hw ha hb
  have had : admitted off 32 = true := (admitted_iff off 32).2 ⟨rfl, ha⟩
  have hbit : off = 0x010 → (busyValue (regAt off) hs.draws).getLsbD 0 = true := by
    rintro rfl
    show (Config.busyRead hs.draws ||| 1).getLsbD 0 = true
    simp
  have hawait : awaitingAfterRead hs.awaiting off (busyValue (regAt off) hs.draws) = hs.awaiting := by
    rw [awaitingAfterRead_eq, if_neg]
    rintro ⟨hoff, hclear⟩
    exact nomatch (hbit hoff).symm.trans hclear
  refine ⟨fun hp => ⟨busyValue (regAt off) hs.draws, ?_, hbit⟩, fun x hp => step_write_busy ht hp hw had hb⟩
  rw [step_read_busy ht hp hw had hb, hawait]

/-- Settles O49: the write reaches the idle engine, and the register at its offset is CMD. -/
theorem cmdWriteLatchesTheWord : Obligations.CmdWriteLatchesTheWord := by
  intro V e hs c rest ht hp hb
  rw [step_write_idle ht hp (by decide) (by decide) hb, awaitingAfterWrite_eq, if_pos (show 0x00C = offCmd from rfl)]
  rfl

/-- Settles O50: such an access is in the window and not admitted. -/
theorem otherWidthsAndAlignmentsFault : Obligations.OtherWidthsAndAlignmentsFault := by
  intro V e hs off width rest ht hoff hbad
  have hw : inWindow off = true := (inWindow_iff off).2 hoff
  have ha : admitted off width = false := (admitted_false_iff off width).2 hbad
  exact ⟨fun hp => step_read_fault ht hp hw ha, fun x hp => step_write_fault ht hp hw ha⟩

/-- Settles O52: such an access is outside the window, so that no read there is one of STATUS. -/
theorem accessesOutsideTheWindowDoNotReachTheEngine : Obligations.AccessesOutsideTheWindowDoNotReachTheEngine := by
  intro V e hs off width rest ht hoff
  have hw : inWindow off = false := (inWindow_false_iff off).2 hoff
  have hstatus : off ≠ offStatus := by unfold offStatus; omega
  refine ⟨fun hp => ⟨Config.outsideRead hs.draws, ?_⟩, fun x hp => step_write_outside ht hp hw⟩
  rw [step_read_outside ht hp hw, awaitingAfterRead_eq, if_neg (fun h => hstatus h.1)]

end Sys2Proof.Machine
end

section
/-!
PROOFS. The engine's turn for a table word placed by the model's own device (R65, R275; assumption 4).
-/

namespace Sys2Proof.Machine

/-- R65: the bytes of a command word decode as the word does. -/
theorem decodeBytes_wordBytes (c : BitVec 32) :
    decodeBytes (wordBytes c) = (decodeWord c).map fun i => (i, []) := by
  simp only [wordBytes, decodeBytes, lanes_append]
  cases decodeWord c <;> rfl

/-- R65: a table word is the command that its command word decodes to. -/
theorem decodeTableWord_eq_some {nbits w : Nat} {i : Instr} (h : decodeTableWord nbits w = some i) :
    decodeWord (tableWord nbits w) = .ok i := by
  rw [decodeTableWord, decodeBytes_wordBytes] at h
  cases hd : decodeWord (tableWord nbits w) <;> rw [hd] at h <;> cases h
  rfl

/-- Settles O16: the next turn is the engine's, which is busy and completes the word. -/
theorem placedWordRunsNext : Obligations.PlacedWordRunsNext := by
  intro s nbits w i h
  have hstep : step (s.withFetchWord nbits w) =
      engineStep (s.withEngine (s.engine.latchCommand (tableWord nbits w))) := rfl
  simp only [hstep, engineStep, State.withEngine_engine, Engine.latchCommand_busy, Engine.latchCommand_pend, if_true,
    decodeTableWord_eq_some h]

end Sys2Proof.Machine
end

section
/-!
PROOFS. Command words, both ways (R90 to R97): the decoder as one condition on the fields of a word, and the mask and
match table as the same condition.
-/

namespace Sys2Proof

/-- R94: the fields that a word's opcode does not use are 0. -/
def UnusedFieldsZero (c : BitVec 32) : Prop :=
  fieldZ1 c = 0 ∧ fieldZ2 c = 0 ∧ (fieldOp c ≠ 2 → fieldImm8 c = 0) ∧ (fieldOp c ≠ 3 → fieldLen c = 0)

/-- R96: a word decodes to what its opcode names, if the fields it does not use are 0. -/
theorem decodeWord_eq_ok_iff (c : BitVec 32) (i : Instr) : decodeWord c = .ok i ↔
    instrOfOp (fieldOp c) (fieldImm8 c) (fieldLen c).toNat = some i ∧ UnusedFieldsZero c := by
  unfold decodeWord UnusedFieldsZero
  cases instrOfOp (fieldOp c) (fieldImm8 c) (fieldLen c).toNat with
  | none => exact iff_of_false nofun nofun
  | some j =>
    dsimp only
    split_ifs with hz hb hl
    · exact iff_of_false nofun (by tauto)
    · exact iff_of_false nofun (by tauto)
    · exact iff_of_false nofun (by tauto)
    · push Not at hz hb hl
      exact ⟨fun h => ⟨congrArg some (Except.ok.inj h), hz.1, hz.2, hb, hl⟩,
        fun h => congrArg Except.ok (Option.some.inj h.1)⟩

/-- R91: the opcodes 1 to 7 name a command, whatever the operands. -/
theorem exists_instrOfOp_iff (op : BitVec 4) (b : Byte) (n : Nat) :
    (∃ i, instrOfOp op b n = some i) ↔ 1 ≤ op.toNat ∧ op.toNat ≤ 7 := by
  unfold instrOfOp
  split
  case h_8 =>
    simp only [imp_false] at *
    exact iff_of_false nofun (by omega)
  all_goals exact iff_of_true ⟨_, rfl⟩ (by omega)

/-- R91 to R93: a well-formed command is the one its opcode and operand fields name. -/
theorem instrOfOp_fields {i : Instr} (h : i.wellFormed = true) : instrOfOp i.opcode i.imm8 i.len.toNat = some i := by
  cases i with
  | absorb n =>
    have hn : n < 256 := by simpa [Instr.wellFormed] using h
    simp [instrOfOp, Instr.opcode, Instr.len, Nat.mod_eq_of_lt hn]
  | configure | absorbByte b | finalize | reset | clearKey | clearSalt => rfl

/-- R93: the count of a decoded ABSORB fits its field. -/
theorem wellFormed_of_instrOfOp {op : BitVec 4} {b l : BitVec 8} {i : Instr} (h : instrOfOp op b l.toNat = some i) :
    i.wellFormed = true := by
  unfold instrOfOp at h
  split at h <;> cases h
  case h_3 => exact decide_eq_true l.isLt
  all_goals rfl

/-- R94: the words of the commands have 0 in the fields they do not use. -/
theorem unusedFieldsZero_encode (i : Instr) : UnusedFieldsZero (encode i) := by
  have h : Laws.EncodedFields.Statement i :=
    match i with
    | .configure => Laws.EncodedFields.configure
    | .absorbByte b => Laws.EncodedFields.absorbByte b
    | .absorb n => Laws.EncodedFields.absorb n
    | .finalize => Laws.EncodedFields.finalize
    | .reset => Laws.EncodedFields.reset
    | .clearKey => Laws.EncodedFields.clearKey
    | .clearSalt => Laws.EncodedFields.clearSalt
  exact h.2

/-- R97: the word of a well-formed command decodes to it. -/
theorem decodeWord_encode {i : Instr} (h : i.wellFormed = true) : decodeWord (encode i) = .ok i := by
  obtain ⟨hop, -, himm, hlen, -⟩ := encode_fields i
  rw [decodeWord_eq_ok_iff, hop, himm, hlen]
  exact ⟨instrOfOp_fields h, unusedFieldsZero_encode i⟩

/-- R65: the bytes of a command word, with more bytes after them, decode as the word does and leave the rest. -/
theorem decodeBytes_wordBytes_append (c : BitVec 32) (rest : List Byte) :
    decodeBytes (wordBytes c ++ rest) = (decodeWord c).map fun i => (i, rest) := by
  simp only [wordBytes, List.cons_append, List.nil_append, decodeBytes, lanes_append]
  cases decodeWord c <;> rfl

/-- A command word is the table word of its own number. -/
theorem tableWord_toNat (c : BitVec 32) : tableWord 32 c.toNat = c := by
  simp [tableWord, Nat.mod_eq_of_lt c.isLt]

/-- Settles O11: the word's fields are the command's, and its bytes and its number give the word back. -/
theorem decodeOfEncode : Obligations.DecodeOfEncode := by
  intro i h
  have hd : decodeWord (encode i) = .ok i := decodeWord_encode h
  refine ⟨hd, fun rest => ?_, ?_⟩
  · rw [decodeBytes_wordBytes_append, hd]; rfl
  · rw [decodeTableWord, tableWord_toNat, Machine.decodeBytes_wordBytes, hd]; rfl

/-- Settles O12: of the commands only ABSORB can be ill formed, and the word's LEN field is its count. -/
theorem encodeOfDecode : Obligations.EncodeOfDecode := fun c i h =>
  ⟨encode_of_decodeWord h, wellFormed_of_instrOfOp ((decodeWord_eq_ok_iff c i).1 h).1⟩

/-! The mask and match table (R97). -/

/-- R90: two words are the same when their five fields are. -/
theorem eq_iff_fields (c d : BitVec 32) : c = d ↔ fieldOp c = fieldOp d ∧ fieldZ1 c = fieldZ1 d ∧
    fieldImm8 c = fieldImm8 d ∧ fieldLen c = fieldLen d ∧ fieldZ2 c = fieldZ2 d := by
  refine ⟨by rintro rfl; simp, fun ⟨hop, hz1, himm, hlen, hz2⟩ => ?_⟩
  rw [← fields_join c, ← fields_join d, hop, hz1, himm, hlen, hz2]

/-- R90: the fields of a masked word are its fields, masked. -/
theorem fields_and (c m : BitVec 32) :
    fieldOp (c &&& m) = fieldOp c &&& fieldOp m ∧ fieldZ1 (c &&& m) = fieldZ1 c &&& fieldZ1 m ∧
    fieldImm8 (c &&& m) = fieldImm8 c &&& fieldImm8 m ∧ fieldLen (c &&& m) = fieldLen c &&& fieldLen m ∧
    fieldZ2 (c &&& m) = fieldZ2 c &&& fieldZ2 m :=
  ⟨BitVec.extractLsb'_and, BitVec.extractLsb'_and, BitVec.extractLsb'_and, BitVec.extractLsb'_and, BitVec.extractLsb'_and⟩

/-- R97: a word matches a row when its fields, masked, are those of the row's pattern. -/
theorem matchesWord_iff_fields (r : CommandRow) (c : BitVec 32) : r.matchesWord c = true ↔
    fieldOp c &&& fieldOp r.mask = fieldOp r.pattern ∧ fieldZ1 c &&& fieldZ1 r.mask = fieldZ1 r.pattern ∧
    fieldImm8 c &&& fieldImm8 r.mask = fieldImm8 r.pattern ∧ fieldLen c &&& fieldLen r.mask = fieldLen r.pattern ∧
    fieldZ2 c &&& fieldZ2 r.mask = fieldZ2 r.pattern := by
  obtain ⟨hop, hz1, himm, hlen, hz2⟩ := fields_and c r.mask
  rw [CommandRow.matchesWord, beq_iff_eq, eq_iff_fields, hop, hz1, himm, hlen, hz2]

/-- R97: what the table's rows have in common: every bit of OP, Z1 and Z2 is compared, Z1 and Z2 with 0; IMM8 and LEN
are compared with 0 too, but IMM8 in ABSORB_BYTE's row and LEN in ABSORB's are not compared. -/
theorem commandRows_fields : ∀ r ∈ commandRows,
    fieldOp r.mask = BitVec.allOnes 4 ∧ fieldZ1 r.mask = BitVec.allOnes 4 ∧ fieldZ2 r.mask = BitVec.allOnes 8 ∧
    fieldImm8 r.mask = (if fieldOp r.pattern = 2 then 0 else BitVec.allOnes 8) ∧
    fieldLen r.mask = (if fieldOp r.pattern = 3 then 0 else BitVec.allOnes 8) ∧
    fieldZ1 r.pattern = 0 ∧ fieldZ2 r.pattern = 0 ∧ fieldImm8 r.pattern = 0 ∧ fieldLen r.pattern = 0 := by decide

/-- R97: a row is the words of one opcode with 0 in the fields that the opcode does not use. -/
theorem matchesWord_iff {r : CommandRow} (hr : r ∈ commandRows) (c : BitVec 32) :
    r.matchesWord c = true ↔ fieldOp c = fieldOp r.pattern ∧ UnusedFieldsZero c := by
  obtain ⟨hop, hz1, hz2, himm, hlen, pz1, pz2, pimm, plen⟩ := commandRows_fields r hr
  rw [matchesWord_iff_fields, hop, hz1, hz2, himm, hlen, pz1, pz2, pimm, plen]
  simp only [BitVec.and_allOnes, UnusedFieldsZero]
  constructor
  · rintro ⟨ho, h1, hi, hl, h2⟩
    refine ⟨ho, h1, h2, fun h => ?_, fun h => ?_⟩
    · rwa [if_neg (ho ▸ h), BitVec.and_allOnes] at hi
    · rwa [if_neg (ho ▸ h), BitVec.and_allOnes] at hl
  · rintro ⟨ho, h1, h2, hi, hl⟩
    refine ⟨ho, h1, ?_, ?_, h2⟩ <;> split_ifs with h
    · exact BitVec.and_zero
    · rw [BitVec.and_allOnes, hi (ho ▸ h)]
    · exact BitVec.and_zero
    · rw [BitVec.and_allOnes, hl (ho ▸ h)]

/-- R91, R97: the rows have the opcodes 1 to 7, each once. -/
theorem commandRows_opcodes :
    (∀ r ∈ commandRows, 1 ≤ (fieldOp r.pattern).toNat ∧ (fieldOp r.pattern).toNat ≤ 7) ∧
    ∀ r ∈ commandRows, ∀ q ∈ commandRows, fieldOp r.pattern = fieldOp q.pattern → r = q := by decide

/-- R91, R97: a command's mnemonic is that of the row with its opcode. -/
theorem exists_row_of_opcode (i : Instr) : ∃ r ∈ commandRows, fieldOp r.pattern = i.opcode ∧ r.mnemonic = i.mnemonic := by
  cases i <;> simp [commandRows, Instr.opcode, Instr.mnemonic, fieldOp]

/-- Settles O13: the decoder and a row ask the same of a word's fields, and the rows' opcodes are those of the commands. -/
theorem decodesExactlyTheTableRows : Obligations.DecodesExactlyTheTableRows := by
  intro c
  have hrow (i : Instr) (h : decodeWord c = .ok i) :
      ∃ r ∈ commandRows, r.matchesWord c = true ∧ r.mnemonic = i.mnemonic := by
    obtain ⟨r, hr, hop, hname⟩ := exists_row_of_opcode i
    refine ⟨r, hr, (matchesWord_iff hr c).2 ⟨?_, ((decodeWord_eq_ok_iff c i).1 h).2⟩, hname⟩
    rw [hop, ← encode_of_decodeWord h, (encode_fields i).1]
  refine ⟨⟨fun ⟨i, h⟩ => ?_, fun ⟨r, hr, h⟩ => ?_⟩, fun r hr q hq h h' => ?_, hrow⟩
  · obtain ⟨r, hr, hm, -⟩ := hrow i h
    exact ⟨r, hr, hm⟩
  · obtain ⟨hop, hzero⟩ := (matchesWord_iff hr c).1 h
    obtain ⟨i, hi⟩ := (exists_instrOfOp_iff (fieldOp c) (fieldImm8 c) (fieldLen c).toNat).2
      (hop ▸ commandRows_opcodes.1 r hr)
    exact ⟨i, (decodeWord_eq_ok_iff c i).2 ⟨hi, hzero⟩⟩
  · exact commandRows_opcodes.2 r hr q hq
      (((matchesWord_iff hr c).1 h).1.symm.trans ((matchesWord_iff hq c).1 h').1)

/-! Words that are no command (R94, R95), and words written out. -/

/-- R94, R95: the numbers that are no command's word are those of the words that do not decode. -/
theorem not_illegalWord_iff (c : BitVec 32) : ¬ Machine.IllegalWord c.toNat ↔ ∃ i, decodeWord c = .ok i := by
  obtain ⟨hop, hz1, himm, hlen, hz2⟩ := fields_toNat c
  have hdec : (∃ i, decodeWord c = .ok i) ↔
      (1 ≤ (fieldOp c).toNat ∧ (fieldOp c).toNat ≤ 7) ∧ UnusedFieldsZero c := by
    simp only [decodeWord_eq_ok_iff, exists_and_right, exists_instrOfOp_iff]
  rw [hdec, UnusedFieldsZero, Machine.IllegalWord, ← hop, ← hz1, ← himm, ← hlen, ← hz2]
  simp only [← BitVec.toNat_inj, ne_eq, BitVec.ofNat_eq_ofNat, BitVec.toNat_ofNat, Nat.reducePow, Nat.reduceMod]
  omega

/-- Settles O14: ten closed words. -/
theorem sampleWordsDecode : Obligations.SampleWordsDecode := by
  unfold Obligations.SampleWordsDecode
  decide

end Sys2Proof
end

section
/-!
PROOFS. Commands that complete with an error: a word that is no command (R94), no configuration yet (R96), an ABSORB
longer than a block (R93).
-/

namespace Sys2Proof.Machine

/-- R275, R96: on the engine's turn a latched word that does not decode completes with ILLEGAL_COMMAND. -/
theorem step_illegal {V : Variant} {e : Engine V} {hs : HostSide} (ht : State.turn ⟨V, e, hs⟩ = .engine)
    (hb : e.latch.busy = true) {r : DecodeError} (hd : decodeWord e.latch.pend = .error r) :
    step ⟨V, e, hs⟩ = .next ⟨V, e.raise .illegalCommand, { hs with schedule := hs.schedule.tail }⟩ := by
  simp [step, ht, moveOf, engineStep, State.takeTurn, hb, hd, complete]

/-- Settles O17: a word that is no command's fails to decode, and then the engine raises ILLEGAL_COMMAND. -/
theorem illegalWordsCompleteWithIllegalCommand : Obligations.IllegalWordsCompleteWithIllegalCommand := by
  intro V e hs ht hb
  refine ⟨fun hbad => ?_, (not_illegalWord_iff e.latch.pend).1⟩
  cases hd : decodeWord e.latch.pend with
  | ok i => exact absurd hbad ((not_illegalWord_iff e.latch.pend).2 ⟨i, hd⟩)
  | error r => exact step_illegal ht hb hd

/-- R96: before anything is configured every command but CONFIGURE fails with NOT_CONFIGURED. -/
theorem Engine.effect_unconfigured {V : Variant} {e : Engine V} {i : Instr} (hi : i ≠ .configure)
    (hc : e.params.configured = false) : e.effect i = .error .notConfigured := by
  cases i with
  | configure => exact absurd rfl hi
  | absorbByte | absorb | finalize | reset | clearKey | clearSalt => exact e.whenConfigured_false _ hc

/-- Settles O20: the one check comes before the command's own rule, ABSORB's length check included. -/
theorem commandsNeedAnInstance : Obligations.CommandsNeedAnInstance := by
  intro i V e hs hi hc
  rw [exec_mk, Engine.effect_unconfigured hi hc]
  rfl

/-- R93: an ABSORB of more than a block fails with BAD_LENGTH. -/
theorem Engine.effect_absorb_too_long {V : Variant} {e : Engine V} {n : Nat} (hc : e.params.configured = true)
    (hn : V.blockBytes < n) : e.effect (.absorb n) = .error .badLength := by
  rw [Engine.effect, Engine.whenConfigured_true _ _ hc, Engine.absorb, if_pos hn]

/-- Settles O29: the length check fails, and an error changes nothing else. -/
theorem absorbTooLongIsBadLength : Obligations.AbsorbTooLongIsBadLength := by
  intro V e hs n hc hn
  rw [exec_mk, Engine.effect_absorb_too_long hc hn]
  rfl

end Sys2Proof.Machine
end

section
/-!
PROOFS. Runs of the machine in parts, and two host programs: the loader LOADIN and the WAIT loop (R102, R103).
-/

namespace Sys2Proof.Machine

/-- A run goes on from where its first part ended. -/
theorem core_run_add {a : Nat} {s t : State} (h : Host.Core.run Sys2Proof.core a s = .next t) (b : Nat) :
    Host.Core.run Sys2Proof.core (a + b) s = Host.Core.run Sys2Proof.core b t := by
  induction a generalizing s with
  | zero => cases h; rw [Nat.zero_add]
  | succ a ih =>
    rw [Nat.add_right_comm]
    cases hs : step s with
    | next u =>
      rw [core_run_next a s u hs] at h
      rw [core_run_next (a + b) s u hs]
      exact ih h
    | fault F => simp only [Host.Core.run, show Sys2Proof.core.step s = .fault F from hs] at h; cases h
    | refused r => simp only [Host.Core.run, show Sys2Proof.core.step s = .refused r from hs] at h; cases h

/-- With no turn left in the schedule the host of an idle engine moves (assumption 2). -/
theorem turn_host_of_idle {V : Variant} {e : Engine V} {hs : HostSide} (hb : e.latch.busy = false)
    (ht : hs.schedule = []) : State.turn ⟨V, e, hs⟩ = .host := by
  simp [State.turn, ht, hb]

/-! LOADIN (R102). -/

/-- R66, R102: byte lane `k` of register `j` of a string is the string's byte `4j+k`, zero past its end. -/
theorem lane_stringReg (bs : List Byte) (j : Nat) {k : Nat} (hk : k < 4) :
    lane (stringReg bs j) k = bs.getD (4 * j + k) 0 := by
  match k, hk with
  | 0, _ | 1, _ | 2, _ | 3, _ =>
    ext i hi
    simp only [lane, stringReg, BitVec.getElem_extractLsb', BitVec.getLsbD_append]
    grind

/-- The loader's writes of the registers `js` of INBUF. -/
def inbufWrites (bs : List Byte) (js : List Nat) : List HostOp :=
  js.map fun j => hostW (offInbuf + 4 * j) (stringReg bs j)

/-- The bytes of INBUF after the registers `js` of a string are stored, one after another. -/
def storeRegs (bs : List Byte) (js : List Nat) (inbuf : Vector Byte 128) : Vector Byte 128 :=
  js.foldl (fun v j => storeReg v j (stringReg bs j)) inbuf

/-- R102: a byte of a stored register is the string's; every other byte stays. -/
theorem storeRegs_getElem (bs : List Byte) (js : List Nat) (inbuf : Vector Byte 128) (i : Nat) (h : i < 128) :
    (storeRegs bs js inbuf)[i] = if i / 4 ∈ js then bs.getD i 0 else inbuf[i] := by
  induction js generalizing inbuf with
  | nil => rfl
  | cons j js ih =>
    have hbyte : (storeReg inbuf j (stringReg bs j))[i] = if i / 4 = j then bs.getD i 0 else inbuf[i] := by
      rw [storeReg_getElem]
      split_ifs with hj
      · rw [lane_stringReg bs j (Nat.mod_lt i (by decide)), ← hj, Nat.div_add_mod]
      · rfl
    have hcons : storeRegs bs (j :: js) inbuf = storeRegs bs js (storeReg inbuf j (stringReg bs j)) := rfl
    rw [hcons, ih, hbyte]
    by_cases hj : i / 4 = j <;> by_cases hjs : i / 4 ∈ js <;> simp [hj, hjs]

/-- R74, R69: a host program of INBUF writes, run on an idle engine with no turn between them, stores the registers in order. -/
theorem run_inbufWrites {V : Variant} (bs : List Byte) (js : List Nat) (hjs : ∀ j ∈ js, j < 32) (e : Engine V)
    (hs : HostSide) (hb : e.latch.busy = false) (ht : hs.schedule = []) (hp : hs.program = inbufWrites bs js) :
    Host.Core.run Sys2Proof.core js.length (⟨V, e, hs⟩ : State) =
      .next (⟨V, { e with staging := { e.staging with inbuf := storeRegs bs js e.staging.inbuf } },
        { hs with program := [] }⟩ : State) := by
  induction js generalizing e hs with
  | nil =>
    obtain ⟨program, schedule, observed, draws, awaiting⟩ := hs
    cases hp
    rfl
  | cons j js ih =>
    obtain ⟨hj, hrest⟩ := List.forall_mem_cons.1 hjs
    have hreg : regAt (offInbuf + 4 * j) = .inbuf ⟨j, hj⟩ := regAt_offset (.inbuf ⟨j, hj⟩) nofun
    have hw : inWindow (offInbuf + 4 * j) = true := (inWindow_iff _).2 (by simp only [offInbuf]; omega)
    have ha : admitted (offInbuf + 4 * j) Config.busBits = true :=
      (admitted_iff _ _).2 ⟨rfl, by simp only [offInbuf]; omega⟩
    have hnocmd : offInbuf + 4 * j ≠ offCmd := by simp only [offInbuf, offCmd]; omega
    have hstep := step_write_idle (turn_host_of_idle hb ht) hp hw ha hb
    rw [hreg, awaitingAfterWrite_eq, if_neg hnocmd, ht] at hstep
    rw [ht]
    exact (core_run_next _ _ _ hstep).trans
      (ih hrest _ { hs with program := inbufWrites bs js, schedule := [] } hb rfl rfl)

/-- R102: LOADIN's operations are the writes of the registers its string fills, at most INBUF's 32. -/
theorem loadIn_eq_some {bs : List Byte} {ops : List HostOp} (h : loadIn bs = some ops) :
    bs.length ≤ 128 ∧ ops = inbufWrites bs (List.range (regsFor bs.length)) := by
  unfold loadIn loadOps at h
  split at h <;> cases h
  exact ⟨‹_›, rfl⟩

/-- Settles O54: the program is one write for each register the string fills, each of them a register of INBUF. -/
theorem loadInFillsInbuf : Obligations.LoadInFillsInbuf := by
  intro V e hs bs ops hb ht hload hp
  obtain ⟨hlen, rfl⟩ := loadIn_eq_some hload
  have hjs : ∀ j ∈ List.range (regsFor bs.length), j < 32 := by
    intro j hj
    have := List.mem_range.1 hj
    unfold regsFor at this
    omega
  refine ⟨storeRegs bs (List.range (regsFor bs.length)) e.staging.inbuf, ?_, fun i hi => ?_⟩
  · rw [inbufWrites, List.length_map]
    exact run_inbufWrites bs _ hjs e hs hb ht hp
  · have hmem : i / 4 ∈ List.range (regsFor bs.length) ↔ i < 4 * ((bs.length + 3) / 4) := by
      rw [List.mem_range, regsFor]; omega
    rw [storeRegs_getElem]
    by_cases hin : i < bs.length
    · rw [if_pos (hmem.2 (by omega)), if_pos hin]
    · rw [if_neg hin]
      exact if_congr hmem (List.getD_eq_default _ _ (Nat.le_of_not_lt hin)) rfl

/-! The WAIT loop (R103). -/

/-- R71, R103: the values of `n` polls of a busy engine, drawn from `d` on. -/
def busyPolls (d n : Nat) : List (BitVec 32) := (List.range n).map fun k => busyValue .status (d + k)

/-- One value for each poll. -/
theorem busyPolls_length (d n : Nat) : (busyPolls d n).length = n := by simp [busyPolls]

/-- R71: STATUS reads BUSY = 1 while busy. -/
theorem busyPolls_bit0 {d n : Nat} {x : BitVec 32} (h : x ∈ busyPolls d n) : x.getLsbD 0 = true := by
  obtain ⟨k, -, rfl⟩ := List.mem_map.1 h
  simp [busyValue]

/-- R103: the first poll's value, then those of the polls after it. -/
theorem busyPolls_succ (d n : Nat) : busyPolls d (n + 1) = busyValue .status d :: busyPolls (d + 1) n := by
  simp [busyPolls, List.range_succ_eq_map, Nat.add_assoc, Nat.add_comm 1]

/-- R103: the host's turn, its next operation a WAIT. -/
theorem step_wait {V : Variant} {e : Engine V} {hs : HostSide} {rest : List HostOp}
    (ht : State.turn ⟨V, e, hs⟩ = .host) (hp : hs.program = .wait :: rest) :
    step ⟨V, e, hs⟩ = hostPoll ⟨V, e, { hs with schedule := hs.schedule.tail }⟩ rest := by
  simp [step, ht, moveOf, hostStep, hp, State.takeTurn]

/-- R103, R71: the polls that the schedule grants the host while the engine is busy leave the loop where it is. -/
theorem run_busyPolls {V : Variant} {e : Engine V} {rest : List HostOp} (hb : e.latch.busy = true) (k m : Nat)
    {hs : HostSide} (hp : hs.program = .wait :: rest) (ht : hs.schedule = List.replicate (k + m) .host) :
    Host.Core.run Sys2Proof.core k (⟨V, e, hs⟩ : State) = .next (⟨V, e, ⟨.wait :: rest, List.replicate m .host,
      hs.observed ++ busyPolls hs.draws k, hs.draws + k, hs.awaiting⟩⟩ : State) := by
  induction k generalizing hs with
  | zero =>
    obtain ⟨program, schedule, observed, draws, awaiting⟩ := hs
    cases hp; cases ht
    simp [Host.Core.run, busyPolls]
  | succ k ih =>
    rw [Nat.add_right_comm, List.replicate_succ] at ht
    have hturn : State.turn ⟨V, e, hs⟩ = .host := by simp [State.turn, ht]
    have hstep := (step_wait hturn hp).trans (hostPoll_busy _ rest hb)
    rw [ht] at hstep
    refine (core_run_next k _ _ hstep).trans ((ih (hs := { hs with
      schedule := List.replicate (k + m) .host, observed := hs.observed ++ [busyValue .status hs.draws]
      draws := hs.draws + 1 }) hp rfl).trans ?_)
    rw [busyPolls_succ]
    simp [Nat.add_assoc, Nat.add_comm 1]

/-- R275: a finished command leaves the engine idle. -/
theorem Engine.finish_busy {V : Variant} (e : Engine V) (r : Except ErrCode (Engine V)) :
    (e.finish r).latch.busy = false := by
  cases r <;> rfl

/-- R275: the completion step of a busy engine leaves it idle and the host's side as it was. -/
theorem engineStep_busy {V : Variant} {e : Engine V} (hs : HostSide) (hb : e.latch.busy = true) :
    ∃ e' : Engine V, engineStep ⟨V, e, hs⟩ = .next ⟨V, e', hs⟩ ∧ e'.latch.busy = false := by
  unfold engineStep
  rw [if_pos hb]
  split
  · rename_i i hi
    exact ⟨_, exec_mk i V e hs, e.finish_busy (e.effect i)⟩
  · exact ⟨e.raise .illegalCommand, rfl, rfl⟩

/-- With no turn left in the schedule a busy engine completes next (assumption 2). -/
theorem step_completes {V : Variant} {e : Engine V} {hs : HostSide} (hb : e.latch.busy = true) (ht : hs.schedule = []) :
    step ⟨V, e, hs⟩ = engineStep ⟨V, e, hs⟩ := by
  obtain ⟨program, schedule, observed, draws, awaiting⟩ := hs
  cases ht
  simp [step, State.turn, hb, moveOf, State.takeTurn]

/-- R284: a run whose host has an operation left has not ended. -/
theorem observation_of_program_ne_nil {s : State} (h : s.host.program ≠ []) : s.observation = none := by
  rw [State.observation, if_neg]
  exact fun hend => h ((State.runEnded_iff s).1 hend).1

/-- Settles O53: `n` busy polls, the completion, and one idle poll; WAIT is at the head of the program until that one. -/
theorem waitLoopEndsAfterCompletion : Obligations.WaitLoopEndsAfterCompletion := by
  intro V e hs n rest hb hp ht
  have hpoll (k : Nat) (hk : k ≤ n) := run_busyPolls hb k (n - k) hp (by rw [ht, Nat.add_sub_cancel' hk])
  obtain ⟨e', hdone, hidle⟩ := engineStep_busy
    ⟨.wait :: rest, [], hs.observed ++ busyPolls hs.draws n, hs.draws + n, hs.awaiting⟩ hb
  have hcompleted : Host.Core.run Sys2Proof.core (n + 1) (⟨V, e, hs⟩ : State) = .next (⟨V, e', ⟨.wait :: rest, [],
      hs.observed ++ busyPolls hs.draws n, hs.draws + n, hs.awaiting⟩⟩ : State) := by
    have hpolled := hpoll n le_rfl
    rw [Nat.sub_self] at hpolled
    exact (core_run_add hpolled 1).trans (core_run_next 0 _ _ ((step_completes hb rfl).trans hdone))
  have hended : Host.Core.run Sys2Proof.core (n + 2) (⟨V, e, hs⟩ : State) = .next (⟨V, e', ⟨rest, [],
      hs.observed ++ busyPolls hs.draws n ++ [e'.status], hs.draws + n, false⟩⟩ : State) :=
    (core_run_add hcompleted 1).trans
      (core_run_next 0 _ _ ((step_wait (turn_host_of_idle hidle rfl) rfl).trans (hostPoll_idle _ rest hidle)))
  refine ⟨e', busyPolls hs.draws n, hended, hdone, hidle, busyPolls_length _ n, fun x hx => busyPolls_bit0 hx, ?_⟩
  rintro rfl k hk
  obtain hk | rfl | rfl : k ≤ n ∨ k = n + 1 ∨ k = n + 2 := by omega
  · rw [hpoll k hk, if_neg (by omega)]
    exact observation_of_program_ne_nil nofun
  · rw [hcompleted, if_neg (by omega)]
    exact observation_of_program_ne_nil nofun
  · rw [hended, if_pos rfl]
    rfl

end Sys2Proof.Machine
end

section
/-!
PROOFS. The word primitives (R123 to R128): the bits of a rotation, the bytes of a word and the word they make again,
and the counter's halves as numbers.
-/

namespace Sys2Proof.Machine

/-- Settles O55: below bit `W - n` the right shift gives the bit, and from there on the left shift does. -/
theorem rotationBits : Obligations.RotationBits := by
  intro V a n i hn hnW hi
  rw [rotr, BitVec.getLsbD_or, BitVec.getLsbD_ushiftRight, BitVec.getLsbD_shiftLeft, Nat.add_comm n i]
  by_cases hlow : i + n < V.wordBits
  · have hright : i < V.wordBits - n := by omega
    simp [Nat.mod_eq_of_lt hlow, hright]
  · have hleft : ¬ i < V.wordBits - n := by omega
    have hwrap : i - (V.wordBits - n) = (i + n) % V.wordBits := by
      rw [Nat.mod_eq_sub_mod (by omega), Nat.mod_eq_of_lt (by omega)]
      omega
    simp [BitVec.getLsbD_of_ge a (i + n) (by omega), hi, hleft, hwrap]

/-- R125: the value of the first `n` base-256 digits of a number, read little-endian. -/
theorem leValue_digits (n x : Nat) :
    leValue (List.ofFn fun k : Fin n => BitVec.ofNat 8 (x / 256 ^ k.val)) = x % 256 ^ n := by
  induction n generalizing x with
  | zero => simp [leValue, Nat.mod_one]
  | succ n ih =>
    have hrest : (fun k : Fin n => BitVec.ofNat 8 (x / 256 ^ k.succ.val)) =
        fun k : Fin n => BitVec.ofNat 8 (x / 256 / 256 ^ k.val) := by
      funext k
      rw [Nat.div_div_eq_div_mul, ← Nat.pow_succ', Fin.val_succ]
    rw [List.ofFn_succ, leValue, hrest, ih, Nat.pow_succ', Nat.mod_mul]
    simp

/-- R125, R126: the bytes of a word make the word again. -/
theorem leWord_leByte {V : Variant} (x : Word V) :
    leWord V (Vector.ofFn fun k : Fin V.wordBytes => leByte x k.val) 0 = x := by
  have hbytes : ((Vector.ofFn fun k : Fin V.wordBytes => leByte x k.val).toList.drop 0).take V.wordBytes =
      List.ofFn fun k : Fin V.wordBytes => BitVec.ofNat 8 (x.toNat / 256 ^ k.val) := by
    rw [List.drop_zero, List.take_of_length_le (by simp), Vector.toList_ofFn]
    simp only [leByte_eq]
  obtain ⟨-, -, hsize⟩ := counter_sizes V
  rw [leWord, hbytes, leValue_digits, hsize, Nat.mod_eq_of_lt x.isLt, BitVec.ofNat_toNat, BitVec.setWidth_eq]

/-- Settles O56: a word's bytes are its base-256 digits, which as many bytes as the word has give back. -/
theorem littleEndianRoundTrip : Obligations.LittleEndianRoundTrip :=
  fun V x => ⟨leWord_leByte x, fun k => by rw [leByte_eq, BitVec.toNat_ofNat]⟩

/-- R127: the counter's low word is its remainder modulo `2^W`. -/
theorem counterLo_toNat {V : Variant} (t : Counter V) : (counterLo t).toNat = t.toNat % 2 ^ V.wordBits := by
  simp [counterLo, BitVec.extractLsb'_toNat]

/-- R127: the counter's high word is its quotient by `2^W`, modulo `2^W`. -/
theorem counterHi_toNat {V : Variant} (t : Counter V) :
    (counterHi t).toNat = t.toNat / 2 ^ V.wordBits % 2 ^ V.wordBits := by
  simp [counterHi, BitVec.extractLsb'_toNat, Nat.shiftRight_eq_div_pow]

/-- R8: the counter's modulus is that of a word, squared. -/
theorem two_pow_counterBits (V : Variant) : 2 ^ V.counterBits = 2 ^ V.wordBits * 2 ^ V.wordBits := by
  rw [(counter_sizes V).1, Nat.two_mul, Nat.pow_add]

/-- R128: the counter addition, modulo `2^CW`. -/
theorem ctrAdd_toNat {V : Variant} (t : Counter V) (n : Nat) :
    (ctrAdd t n).toNat = (t.toNat + n) % 2 ^ V.counterBits := by
  simp [ctrAdd]

/-- R128: the remainder of a sum is below the added number exactly when the addition of the remainders wraps. -/
theorem add_mod_lt_iff_wraps {P n : Nat} (T : Nat) (hn : n < P) : (T + n) % P < n ↔ P ≤ T % P + n % P := by
  have hT : T % P < P := Nat.mod_lt _ (by omega)
  rw [Nat.add_mod_eq_ite, Nat.mod_eq_of_lt hn]
  split <;> omega

/-- R128: the low words add modulo `2^W`. -/
theorem counterLo_ctrAdd {V : Variant} (t : Counter V) (n : Nat) :
    counterLo (ctrAdd t n) = Word.add (counterLo t) (BitVec.ofNat _ n) := by
  apply BitVec.eq_of_toNat_eq
  rw [BitVec.toNat_add, BitVec.toNat_ofNat, counterLo_toNat, counterLo_toNat, ctrAdd_toNat, two_pow_counterBits,
    Nat.mod_mul_right_mod, ← Nat.add_mod]

/-- R128: the high word takes a carry exactly when the low addition wraps. -/
theorem counterHi_ctrAdd {V : Variant} (t : Counter V) {n : Nat} (hn : n < 2 ^ V.wordBits) :
    counterHi (ctrAdd t n) = Word.add (counterHi t) (if (counterLo (ctrAdd t n)).toNat < n then 1 else 0) := by
  have hwraps : (counterLo (ctrAdd t n)).toNat < n ↔
      2 ^ V.wordBits ≤ t.toNat % 2 ^ V.wordBits + n % 2 ^ V.wordBits := by
    rw [counterLo_toNat, ctrAdd_toNat, two_pow_counterBits, Nat.mod_mul_right_mod, add_mod_lt_iff_wraps _ hn]
  apply BitVec.eq_of_toNat_eq
  rw [BitVec.toNat_add, counterHi_toNat, counterHi_toNat, ctrAdd_toNat, two_pow_counterBits,
    Nat.mod_mul_right_div_self, Nat.mod_mod, Nat.add_div (Nat.two_pow_pos _), Nat.div_eq_of_lt hn, Nat.add_zero]
  simp only [hwraps]
  split <;> simp

/-- Settles O57: each half as a number, for an added number that fits a word. -/
theorem counterAddCarriesBetweenHalves : Obligations.CounterAddCarriesBetweenHalves := by
  intro V t n hn
  obtain ⟨-, hblock, -⟩ := counter_sizes V
  exact ⟨counterLo_ctrAdd t n, counterHi_ctrAdd t (hn.trans_lt hblock), ctrAdd_toNat t n⟩

end Sys2Proof.Machine
end

section
/-!
PROOFS. CONFIGURE's checks as one statement on the numbers CFG and CFGLEN are (R146 to R149), what it latches (R150),
and the parameter block with the chain value it gives (R142 to R144).
-/

namespace Sys2Proof.Machine

/-! The checks (R146 to R149). -/

/-- R146, R147: CFG asks for `d` bytes when DLEN is `d` in bytes, or `8d` in bits. -/
theorem requestedDigestBytes_eq_some_iff (c : BitVec 32) (d : Nat) : requestedDigestBytes c = some d ↔
    (c.toNat / 2 ^ 10 % 2 = 0 → c.toNat % 2 ^ 10 = d) ∧ (c.toNat / 2 ^ 10 % 2 = 1 → c.toNat % 2 ^ 10 = 8 * d) := by
  obtain ⟨hdlen, hbits, -, -, -⟩ := cfg_fields c
  simp only [requestedDigestBytes, hdlen, hbits]
  split_ifs
  · simp only [false_iff]
    omega
  · rw [Option.some.injEq]
    omega
  · rw [Option.some.injEq]
    omega

/-- A check in front of a result lets it pass exactly when the check does not fail. -/
theorem ite_error_eq_ok_iff {ε α : Type} {p : Prop} [Decidable p] {E : ε} {r : Except ε α} {x : α} :
    (if p then .error E else r) = .ok x ↔ ¬ p ∧ r = .ok x := by
  split_ifs with hp <;> simp [hp]

/-- R146: what the checks let pass, in the fields of CFG and CFGLEN. -/
theorem configureChecks_eq_ok_iff (V : Variant) (c cl : BitVec 32) (d k : Nat) :
    configureChecks V c cl = .ok (d, k) ↔
      cfgReservedSet c cl = false ∧ requestedDigestBytes c = some d ∧ 1 ≤ d ∧ d ≤ V.maxDigest ∧
      cfgKeylen c = k ∧ k ≤ V.maxDigest ∧ (cfgSaltEn c = true → cfglenSalt cl = V.saltBytes) ∧
      (cfgPersEn c = true → cfglenPers cl = V.saltBytes) := by
  rw [configureChecks, ite_error_eq_ok_iff, Bool.not_eq_true]
  refine and_congr_right fun _ => ?_
  cases requestedDigestBytes c with
  | none => simp
  | some d' =>
    simp only [ite_error_eq_ok_iff, Except.ok.injEq, Prod.mk.injEq, Option.some.injEq]
    grind

/-- R146 to R149: the checks pass exactly a legal CFG and CFGLEN. -/
theorem configureChecks_eq_ok_iff_legal {V : Variant} {c cl : BitVec 32} {d k : Nat} :
    configureChecks V c cl = .ok (d, k) ↔ LegalConfig V c.toNat cl.toNat d k := by
  obtain ⟨-, -, hkeylen, hsaltEn, hpersEn⟩ := cfg_fields c
  obtain ⟨hsaltLen, hpersLen⟩ := cfglen_fields cl
  rw [configureChecks_eq_ok_iff, cfgReservedSet_false_iff, requestedDigestBytes_eq_some_iff, hkeylen, hsaltEn, hpersEn,
    hsaltLen, hpersLen]
  exact ⟨fun ⟨⟨h11, h23, h26, hlen⟩, ⟨hbytes, hbits⟩, hlow, hhigh, hkey, hkhigh, hsalt, hpers⟩ =>
      ⟨h11, h23, h26, hlen, hbytes, hbits, hlow, hhigh, hkey, hkhigh, hsalt, hpers⟩,
    fun h => ⟨⟨h.reserved11, h.reserved23, h.reserved26, h.reservedLen⟩, ⟨h.inBytes, h.inBits⟩, h.digestLow,
      h.digestHigh, h.keyField, h.keyHigh, h.salt, h.pers⟩⟩

/-- R146, R150: CONFIGURE on a legal CFG and CFGLEN completes with success and its commit. -/
theorem exec_configure_legal {V : Variant} {e : Engine V} (hs : HostSide) {d k : Nat}
    (h : LegalConfig V e.staging.cfg.toNat e.staging.cfglen.toNat d k) :
    exec .configure ⟨V, e, hs⟩ = .next ⟨V, (e.commit d k).succeed, hs⟩ := by
  rw [exec_mk, Engine.effect, Engine.configure_ok (configureChecks_eq_ok_iff_legal.2 h), Engine.finish_ok]

/-- R150: a byte of a retained salt or personalization is the staged one where it is enabled, and else 0. -/
theorem retain_enabled_getElem {a b : Nat} (enabled : Bool) (bs : Vector Byte a) {i : Nat} (hb : i < b) (ha : i < a) :
    (retain b (if enabled then b else 0) bs)[i] = if enabled then bs[i] else 0 := by
  cases enabled <;> simp [hb, ha]

/-- Settles O21: the checks pass, and the commit's latched parameters are read byte by byte. -/
theorem configureStartsAnInstance : Obligations.ConfigureStartsAnInstance := by
  intro V e hs d k h
  obtain ⟨-, -, -, hsaltEn, hpersEn⟩ := cfg_fields e.staging.cfg
  refine ⟨configuredParams V e.staging d k, exec_configure_legal hs h, rfl, rfl, rfl, hsaltEn, hpersEn,
    fun i hi hi' => ?_, fun i hi hi' => ?_, fun i hi hi' => ?_⟩
  · simp [configuredParams, hi']
  · exact retain_enabled_getElem (cfgSaltEn e.staging.cfg) e.staging.salts hi hi'
  · exact retain_enabled_getElem (cfgPersEn e.staging.cfg) e.staging.perss hi hi'

/-- Settles O22: only legal registers pass the checks, and failing checks raise INVALID_PARAMETER. -/
theorem failedConfigureKeepsTheInstance : Obligations.FailedConfigureKeepsTheInstance := by
  intro V e hs hbad
  rw [exec_mk, Engine.effect]
  cases hc : configureChecks V e.staging.cfg e.staging.cfglen with
  | ok lengths =>
    obtain ⟨d, k⟩ := lengths
    exact absurd (configureChecks_eq_ok_iff_legal.1 hc) (hbad d k)
  | error E =>
    rw [Engine.configure_error hc, configureChecks_error hc]
    rfl

/-! The two forms of a digest length (R154). -/

/-- R150: besides the two lengths, the latched parameters depend on the two enable bits and the staged arrays only. -/
theorem configuredParams_congr (V : Variant) {st st' : Staging} (d k : Nat) (hkeys : st.keys = st'.keys)
    (hsalts : st.salts = st'.salts) (hperss : st.perss = st'.perss) (hsaltEn : cfgSaltEn st.cfg = cfgSaltEn st'.cfg)
    (hpersEn : cfgPersEn st.cfg = cfgPersEn st'.cfg) : configuredParams V st d k = configuredParams V st' d k := by
  rw [configuredParams, configuredParams, hkeys, hsalts, hperss, hsaltEn, hpersEn]

/-- The engine with another CFG. -/
def Engine.withCfg {V : Variant} (e : Engine V) (c : BitVec 32) : Engine V :=
  { e with staging := { e.staging with cfg := c } }

/-- R69: it is what a host's write of CFG leaves. -/
theorem Engine.writeReg_cfg_eq_withCfg {V : Variant} (e : Engine V) (c : BitVec 32) :
    e.writeReg .cfg c = e.withCfg c := rfl

/-- R150: the commit takes from CFG its two enable bits only. -/
theorem Engine.commit_withCfg {V : Variant} (e : Engine V) (d k : Nat) {c c' : BitVec 32}
    (hsaltEn : cfgSaltEn c = cfgSaltEn c') (hpersEn : cfgPersEn c = cfgPersEn c') :
    (e.withCfg c).commit d k = ((e.withCfg c').commit d k).withCfg c := by
  have hparams : configuredParams V (e.withCfg c).staging d k = configuredParams V (e.withCfg c').staging d k :=
    configuredParams_congr V d k rfl rfl rfl hsaltEn hpersEn
  rw [Engine.commit, Engine.latchParams, hparams]
  rfl

/-- R149: below bit 11 CFG asks for no key, no salt and no personalization, and the lengths in CFGLEN are ignored. -/
theorem legalConfig_of_low {V : Variant} {cfg cfglen d : Nat} (hcfg : cfg < 2 ^ 11) (hlen : cfglen < 2 ^ 16)
    (hbytes : cfg / 2 ^ 10 % 2 = 0 → cfg % 2 ^ 10 = d) (hbits : cfg / 2 ^ 10 % 2 = 1 → cfg % 2 ^ 10 = 8 * d)
    (hlow : 1 ≤ d) (hhigh : d ≤ V.maxDigest) : LegalConfig V cfg cfglen d 0 where
  reserved11 := by omega
  reserved23 := by omega
  reserved26 := by omega
  reservedLen := by omega
  inBytes := hbytes
  inBits := hbits
  digestLow := hlow
  digestHigh := hhigh
  keyField := by omega
  keyHigh := Nat.zero_le _
  salt := by omega
  pers := by omega

/-- R32: a CFG below bit 11 enables no salt and no personalization. -/
theorem enables_of_low {c : BitVec 32} (hc : c.toNat < 2 ^ 11) : cfgSaltEn c = false ∧ cfgPersEn c = false := by
  obtain ⟨-, -, -, hsaltEn, hpersEn⟩ := cfg_fields c
  rw [← Bool.not_eq_true, ← Bool.not_eq_true, hsaltEn, hpersEn]
  omega

/-- R149, R150: two values of CFG below bit 11 that are legal for the same digest length construct the same instance. -/
theorem exec_configure_low {V : Variant} (e : Engine V) (hs : HostSide) {d : Nat} {c c' : BitVec 32}
    (hc : c.toNat < 2 ^ 11) (hc' : c'.toNat < 2 ^ 11) (h : LegalConfig V c.toNat e.staging.cfglen.toNat d 0)
    (h' : LegalConfig V c'.toNat e.staging.cfglen.toNat d 0) :
    ∃ x : Engine V, exec .configure ⟨V, e.withCfg c, hs⟩ = .next ⟨V, x.withCfg c, hs⟩ ∧
      exec .configure ⟨V, e.withCfg c', hs⟩ = .next ⟨V, x.withCfg c', hs⟩ ∧
      x.latch.err = 0 ∧ x.params.dl = d ∧ x.params.kl = 0 := by
  obtain ⟨hsaltEn, hpersEn⟩ := enables_of_low hc
  obtain ⟨hsaltEn', hpersEn'⟩ := enables_of_low hc'
  refine ⟨((e.withCfg c).commit d 0).succeed, exec_configure_legal hs h, ?_, rfl, rfl, rfl⟩
  rw [exec_configure_legal hs h',
    Engine.commit_withCfg e d 0 (hsaltEn'.trans hsaltEn.symm) (hpersEn'.trans hpersEn.symm)]
  rfl

/-- Settles O23: both forms are legal, ask for `i` bytes and set no bit from bit 11 on. -/
theorem lengthInBitsConstructsTheSameInstance : Obligations.LengthInBitsConstructsTheSameInstance := by
  intro V e hs i hlow hhigh hlen
  obtain ⟨-, -, hmax, -⟩ := variant_sizes V
  have hbytes : (BitVec.ofNat 32 i).toNat = i := Nat.mod_eq_of_lt (by omega)
  have hbits : (BitVec.ofNat 32 (2 ^ 10 + 8 * i)).toNat = 2 ^ 10 + 8 * i := Nat.mod_eq_of_lt (by omega)
  exact exec_configure_low e hs (by omega) (by omega)
    (legalConfig_of_low (by omega) hlen (by omega) (by omega) hlow hhigh)
    (legalConfig_of_low (by omega) hlen (by omega) (by omega) hlow hhigh)

/-! The parameter block and the chain value (R142 to R144). -/

/-- R122, R142: or-ing a field in above a word's bits adds it. -/
theorem toNat_or_shiftLeft_ofNat {w : Nat} (x : BitVec w) {a s : Nat} (hx : x.toNat < 2 ^ s) (ha : a * 2 ^ s < 2 ^ w) :
    (x ||| BitVec.ofNat w a <<< s).toNat = x.toNat + a * 2 ^ s := by
  have haw : a < 2 ^ w := (Nat.le_mul_of_pos_right a (Nat.two_pow_pos s)).trans_lt ha
  rw [BitVec.toNat_or, BitVec.toNat_shiftLeft, BitVec.toNat_ofNat, Nat.mod_eq_of_lt haw, Nat.shiftLeft_eq,
    Nat.mod_eq_of_lt ha, Nat.or_comm, Nat.mul_comm, ← Nat.two_pow_add_eq_or_of_lt hx, Nat.add_comm]

/-- R142: the first parameter word is the sum of its four fields. -/
theorem paramWord_toNat (V : Variant) {dl kl : Nat} (hdl : dl ≤ 64) (hkl : kl ≤ 64) :
    (paramWord V dl kl).toNat = dl + 256 * kl + 0x01010000 := by
  have hW : 2 ^ 32 ≤ 2 ^ V.wordBits := Nat.pow_le_pow_right (by decide) (by cases V <;> decide)
  have hdigest : (BitVec.ofNat V.wordBits dl).toNat = dl := Nat.mod_eq_of_lt (by omega)
  have hkey : (BitVec.ofNat V.wordBits dl ||| BitVec.ofNat V.wordBits kl <<< 8).toNat = dl + kl * 2 ^ 8 := by
    rw [toNat_or_shiftLeft_ofNat _ (by omega) (by omega), hdigest]
  have hfanout : (BitVec.ofNat V.wordBits dl ||| BitVec.ofNat V.wordBits kl <<< 8 |||
      BitVec.ofNat V.wordBits fanout <<< 16).toNat = dl + kl * 2 ^ 8 + fanout * 2 ^ 16 := by
    rw [toNat_or_shiftLeft_ofNat _ (by omega) (by rw [fanout]; omega), hkey]
  rw [paramWord, toNat_or_shiftLeft_ofNat _ (by rw [hfanout, fanout]; omega) (by rw [depth]; omega), hfanout, fanout,
    depth]
  omega

/-- R142: the first parameter word, made of its number. -/
theorem paramWord_eq_ofNat (V : Variant) {dl kl : Nat} (hdl : dl ≤ 64) (hkl : kl ≤ 64) :
    paramWord V dl kl = BitVec.ofNat _ (dl + 256 * kl + 0x01010000) := by
  have hp := paramWord_toNat V hdl hkl
  rw [← hp, BitVec.ofNat_toNat, BitVec.setWidth_eq]

/-- R141, R143: the fixed tree-mode fields put nothing into `h[1]`, `h[2]` and `h[3]`. -/
theorem treeWords_eq_zero (V : Variant) : treeWords V = (0, 0, 0) := by cases V <;> decide

/-- R143, R125: byte `i` of word `k` of a salt or personalization is the retained one, or 0 where it is absent. -/
theorem optionalWord_digit {V : Variant} (present : Bool) (bs : Vector Byte V.saltBytes) {k i j : Nat}
    (hi : i < V.wordBytes) (hj : j < V.saltBytes) (hjk : k * V.wordBytes + i = j) :
    (optionalWord present bs k : Word V).toNat / 256 ^ i % 256 = if present then bs[j].toNat else 0 := by
  subst hjk
  cases present with
  | false => simp [optionalWord]
  | true => exact leWord_digit V bs _ i hi hj

/-- R143, R144: the chain value, without the tree words. -/
theorem paramInit_eq {V : Variant} (p : Params V) : paramInit p =
    #v[(iv V)[0] ^^^ paramWord V p.dl p.kl, (iv V)[1], (iv V)[2], (iv V)[3],
      (iv V)[4] ^^^ optionalWord p.saltp p.saltr 0, (iv V)[5] ^^^ optionalWord p.saltp p.saltr 1,
      (iv V)[6] ^^^ optionalWord p.persp p.persr 0, (iv V)[7] ^^^ optionalWord p.persp p.persr 1] := by
  simp only [paramInit, treeWords_eq_zero, BitVec.ofNat_eq_ofNat, BitVec.xor_zero]

/-- Settles O24: the fields add up without overlap, and each optional word is read byte by byte. -/
theorem parameterWordAndChainValue : Obligations.ParameterWordAndChainValue := by
  refine ⟨fun V _ _ => paramWord_toNat V, fun V p hdl hkl =>
    ⟨optionalWord p.saltp p.saltr 0, optionalWord p.saltp p.saltr 1, optionalWord p.persp p.persr 0,
      optionalWord p.persp p.persr 1, ?_, fun i hi hi' => ?_⟩⟩
  · rw [paramInit_eq, paramWord_eq_ofNat V hdl hkl]
  · have hfirst : 0 * V.wordBytes + i = i := by omega
    have hsecond : 1 * V.wordBytes + i = V.wordBytes + i := by omega
    exact ⟨optionalWord_digit _ _ hi (by omega) hfirst, optionalWord_digit _ _ hi hi' hsecond,
      optionalWord_digit _ _ hi (by omega) hfirst, optionalWord_digit _ _ hi hi' hsecond⟩

end Sys2Proof.Machine
end

section
/-!
PROOFS. The compression core (42_compression.md): G undone line by line (R174), G calls on disjoint working words in any
order (R182), and the worked compression (R183).
-/

namespace Sys2Proof.Machine

/-! G is a bijection (R174). -/

/-- R123: a rotation loses no bit. -/
theorem rotr_injective {V : Variant} {n : Nat} (hn : 0 < n) (hnW : n < V.wordBits) :
    Function.Injective fun a : Word V => rotr a n := by
  intro a b (hab : rotr a n = rotr b n)
  refine BitVec.eq_of_getLsbD_eq fun i hi => ?_
  have hmod : (i + (V.wordBits - n)) % V.wordBits < V.wordBits := Nat.mod_lt _ (by omega)
  have hback : ((i + (V.wordBits - n)) % V.wordBits + n) % V.wordBits = i := by
    rw [Nat.mod_add_mod, show i + (V.wordBits - n) + n = i + V.wordBits by omega, Nat.add_mod_right, Nat.mod_eq_of_lt hi]
  rw [← hback, ← rotationBits V a n _ hn hnW hmod, ← rotationBits V b n _ hn hnW hmod, hab]

/-- R174: four lines of G, which add in one message word and rotate by `r` and `r'`. -/
def mixLines {V : Variant} (r r' : Nat) (w : Word V) (q : Word V × Word V × Word V × Word V) :
    Word V × Word V × Word V × Word V :=
  let a := q.1 + q.2.1 + w
  let d := rotr (q.2.2.2 ^^^ a) r
  let c := q.2.2.1 + d
  (a, rotr (q.2.1 ^^^ c) r', c, d)

/-- R174: G is these four lines twice. -/
theorem mix_eq_mixLines {V : Variant} (q : Word V × Word V × Word V × Word V) (x y : Word V) :
    mix q.1 q.2.1 q.2.2.1 q.2.2.2 x y = mixLines (rot3 V) (rot4 V) y (mixLines (rot1 V) (rot2 V) x q) := rfl

/-- R174: from the words the four lines leave, the last line gives back the word it read, and so each line before it. -/
theorem mixLines_injective {V : Variant} {r r' : Nat} (hr : 0 < r ∧ r < V.wordBits) (hr' : 0 < r' ∧ r' < V.wordBits)
    (w : Word V) : Function.Injective (mixLines r r' w) := by
  rintro ⟨a, b, c, d⟩ ⟨a', b', c', d'⟩ h
  simp only [mixLines, Prod.mk.injEq] at h
  obtain ⟨ha, hb, hc, hd⟩ := h
  rw [hd, BitVec.add_left_inj] at hc
  rw [ha] at hd
  have hd := (BitVec.xor_left_inj _).1 (rotr_injective hr.1 hr.2 hd)
  rw [ha, hc, hd] at hb
  have hb := (BitVec.xor_left_inj _).1 (rotr_injective hr'.1 hr'.2 hb)
  rw [hb, BitVec.add_left_inj, BitVec.add_left_inj] at ha
  rw [ha, hb, hc, hd]

/-- Settles O58: each half of G is injective, and its four words have finitely many values. -/
theorem mixIsBijective : Obligations.MixIsBijective := by
  intro V x y
  refine Function.Injective.bijective_of_finite ?_
  have hfirst : Function.Injective (mixLines (rot1 V) (rot2 V) x) :=
    mixLines_injective (by cases V <;> decide) (by cases V <;> decide) x
  have hsecond : Function.Injective (mixLines (rot3 V) (rot4 V) y) :=
    mixLines_injective (by cases V <;> decide) (by cases V <;> decide) y
  simp only [mix_eq_mixLines]
  exact hsecond.comp hfirst

/-! G calls on disjoint working words commute (R182). -/

/-- R175: the indices of a G call's four working words. -/
def Quad.indices (q : Quad) : List (Fin 16) := [q.1, q.2.1, q.2.2.1, q.2.2.2]

theorem Quad.not_mem_indices_iff {q : Quad} {i : Fin 16} :
    i ∉ q.indices ↔ i.val ≠ q.1 ∧ i.val ≠ q.2.1 ∧ i.val ≠ q.2.2.1 ∧ i.val ≠ q.2.2.2 := by
  simp [Quad.indices, Fin.ext_iff]

/-- The working words of a G call (R175). -/
def readQuad {α : Type} (v : Vector α 16) (q : Quad) : α × α × α × α :=
  (v[q.1], v[q.2.1], v[q.2.2.1], v[q.2.2.2])

/-- The working state with the four results of a G call (R175). -/
def writeQuad {α : Type} (v : Vector α 16) (q : Quad) (r : α × α × α × α) : Vector α 16 :=
  (((v.set q.1 r.1).set q.2.1 r.2.1).set q.2.2.1 r.2.2.1).set q.2.2.2 r.2.2.2

/-- R175: a G call reads four working words and writes them back. -/
theorem mixAt_eq_writeQuad {V : Variant} (v : Vector (Word V) 16) (q : Quad) (x y : Word V) :
    mixAt v q x y = writeQuad v q
      (mix (readQuad v q).1 (readQuad v q).2.1 (readQuad v q).2.2.1 (readQuad v q).2.2.2 x y) := rfl

section
variable {α : Type} (v : Vector α 16)

/-- A write of four words leaves every other word. -/
theorem writeQuad_getElem_of_not_mem {q : Quad} (r : α × α × α × α) {i : Fin 16} (h : i ∉ q.indices) :
    (writeQuad v q r)[i] = v[i] := by
  obtain ⟨ha, hb, hc, hd⟩ := Quad.not_mem_indices_iff.1 h
  simp [writeQuad, ha.symm, hb.symm, hc.symm, hd.symm]

/-- A write of four words and a write of another word commute. -/
theorem writeQuad_set {q : Quad} (r : α × α × α × α) {i : Fin 16} (w : α) (h : i ∉ q.indices) :
    writeQuad (v.set i w) q r = (writeQuad v q r).set i w := by
  obtain ⟨ha, hb, hc, hd⟩ := Quad.not_mem_indices_iff.1 h
  rw [writeQuad, writeQuad, Vector.set_comm _ _ ha, Vector.set_comm _ _ hb,
    Vector.set_comm _ _ hc, Vector.set_comm _ _ hd]

variable {q q' : Quad} (h : q.indices.Disjoint q'.indices)
include h

/-- R182: a G call does not read what a call on other words writes. -/
theorem readQuad_writeQuad_of_disjoint (r : α × α × α × α) : readQuad (writeQuad v q' r) q = readQuad v q := by
  have hword : ∀ i ∈ q.indices, (writeQuad v q' r)[i] = v[i] := fun i hi => writeQuad_getElem_of_not_mem v r (h hi)
  simp only [Quad.indices, List.forall_mem_cons] at hword
  obtain ⟨ha, hb, hc, hd, -⟩ := hword
  rw [readQuad, ha, hb, hc, hd, readQuad]

/-- R182: writes of disjoint words commute. -/
theorem writeQuad_comm_of_disjoint (r r' : α × α × α × α) :
    writeQuad (writeQuad v q r) q' r' = writeQuad (writeQuad v q' r') q r := by
  have hword : ∀ i ∈ q.indices, i ∉ q'.indices := fun i hi => h hi
  simp only [Quad.indices, List.forall_mem_cons] at hword
  obtain ⟨ha, hb, hc, hd, -⟩ := hword
  rw [writeQuad.eq_def v q, writeQuad_set _ _ _ hd, writeQuad_set _ _ _ hc, writeQuad_set _ _ _ hb,
    writeQuad_set _ _ _ ha, ← writeQuad]

end

/-- R182: G calls on disjoint working words commute. -/
theorem mixAt_comm_of_disjoint {V : Variant} (v : Vector (Word V) 16) {q q' : Quad}
    (h : q.indices.Disjoint q'.indices) (x y x' y' : Word V) :
    mixAt (mixAt v q x y) q' x' y' = mixAt (mixAt v q' x' y') q x y := by
  simp only [mixAt_eq_writeQuad, readQuad_writeQuad_of_disjoint v h, readQuad_writeQuad_of_disjoint v h.symm]
  exact writeQuad_comm_of_disjoint v h _ _

/-- A list of the four numbers below 4, none of them twice, is one of their orders. -/
theorem perm_finRange_of_nodup {i j k l : Fin 4} (h : [i, j, k, l].Nodup) : [i, j, k, l].Perm (List.finRange 4) :=
  (h.subperm fun a _ => List.mem_finRange a).perm_of_length_le (by simp)

/-- R175: a half-round's calls in a given order; call `i` has its four words and its number. -/
def mixCalls {V : Variant} (m : Vector (Word V) 16) (s : Vector (Fin 16) 16) (quads : Vector Quad 4)
    (number : Fin 4 → Fin 8) (v : Vector (Word V) 16) (order : List (Fin 4)) : Vector (Word V) 16 :=
  order.foldl (fun v i => mixCall m s v quads[i] (number i)) v

/-- R182: calls on pairwise disjoint words give the same in every order. -/
theorem mixCalls_eq_of_perm {V : Variant} (m : Vector (Word V) 16) (s : Vector (Fin 16) 16) {quads : Vector Quad 4}
    (number : Fin 4 → Fin 8) (v : Vector (Word V) 16)
    (hdisj : ∀ i j : Fin 4, i ≠ j → ∀ a ∈ quads[i].indices, a ∉ quads[j].indices)
    {order order' : List (Fin 4)} (hperm : order.Perm order') :
    mixCalls m s quads number v order = mixCalls m s quads number v order' := by
  refine hperm.foldl_eq' (fun i _ j _ v => ?_) v
  by_cases hij : i = j
  · rw [hij]
  · exact mixAt_comm_of_disjoint v (fun a ha => hdisj i j hij a ha) ..

/-- R175: the columns share no working word. -/
theorem columns_disjoint : ∀ i j : Fin 4, i ≠ j → ∀ a ∈ columns[i].indices, a ∉ columns[j].indices := by decide

/-- R175: nor do the diagonals. -/
theorem diagonals_disjoint : ∀ i j : Fin 4, i ≠ j → ∀ a ∈ diagonals[i].indices, a ∉ diagonals[j].indices := by decide

/-- R175: the column half makes its calls in ascending order. -/
theorem columnHalf_eq_mixCalls {V : Variant} (m : Vector (Word V) 16) (s : Vector (Fin 16) 16)
    (v : Vector (Word V) 16) :
    columnHalf m s v = mixCalls m s columns (Fin.castLE (by decide)) v (List.finRange 4) := rfl

/-- R175: and so does the diagonal half. -/
theorem diagonalHalf_eq_mixCalls {V : Variant} (m : Vector (Word V) 16) (s : Vector (Fin 16) 16)
    (v : Vector (Word V) 16) :
    diagonalHalf m s v = mixCalls m s diagonals (Fin.natAdd 4) v (List.finRange 4) := rfl

/-- Settles O59: the order is a permutation of the half's own, and the half's calls share no working word. -/
theorem halfRoundCallsCommute : Obligations.HalfRoundCallsCommute := by
  intro V m s v i j k l hnodup
  have hperm := perm_finRange_of_nodup hnodup
  rw [columnHalf_eq_mixCalls, diagonalHalf_eq_mixCalls, ← mixCalls_eq_of_perm m s _ v columns_disjoint hperm,
    ← mixCalls_eq_of_perm m s _ v diagonals_disjoint hperm]
  exact ⟨rfl, rfl⟩

/-! The worked compression (R183). -/

/-- Settles O60: the two sides are closed terms, and the ten rounds are run. -/
theorem workedCompressionOfAbc : Obligations.WorkedCompressionOfAbc := by
  unfold Obligations.WorkedCompressionOfAbc
  decide +kernel

end Sys2Proof.Machine
end

section
/-!
PROOFS. ABSORB_BYTE and ABSORB (R201 to R209): what a string of at most a block does, whether it fits into the buffer or
spills, and that ABSORB is ABSORB_BYTE of its bytes in turn.
-/

namespace Sys2Proof.Machine

/-- A command's own rule, where the command may run, is its effect: the converse of `Engine.effect_ok`. -/
theorem CommandEffect.effect {V : Variant} {e x : Engine V} {i : Instr} (h : CommandEffect e i x) :
    e.effect i = .ok x := by
  cases h with
  | configure d k hd => exact Engine.configure_ok hd
  | absorbByte b hc => exact e.whenConfigured_true _ hc
  | absorb n hc hn =>
    rw [Engine.effect, e.whenConfigured_true _ hc, Engine.absorb, if_neg (Nat.not_lt.2 hn)]
  | finalize hc => exact e.whenConfigured_true _ hc
  | reset hc => exact e.whenConfigured_true _ hc
  | clearKey hc => exact e.whenConfigured_true _ hc
  | clearSalt hc => exact e.whenConfigured_true _ hc

/-- R44, R275: a command that may run completes with its own rule's effect and success. -/
theorem CommandEffect.exec_eq {V : Variant} {e x : Engine V} {i : Instr} (h : CommandEffect e i x) (hs : HostSide) :
    exec i ⟨V, e, hs⟩ = .next ⟨V, x.succeed, hs⟩ := by
  rw [exec_mk, h.effect, Engine.finish_ok]

/-! One byte. -/

/-- R203: inside the buffer, the store step's bounds check passes. -/
theorem setIfInBounds_eq_set {n i : Nat} (bs : Vector Byte n) (b : Byte) (h : i < n) :
    bs.setIfInBounds i b = bs.set i b := by
  ext j hj : 1
  rw [Vector.getElem_setIfInBounds, Vector.getElem_set]

/-- Settles O25: with room there is only the store step, whose cursor is inside the buffer. -/
theorem absorbByteStoresWithRoom : Obligations.AbsorbByteStoresWithRoom := by
  intro V e hs b hc hroom
  rw [(CommandEffect.absorbByte b hc).exec_eq hs, e.absorbByte_room b (Nat.ne_of_lt hroom), Engine.storeByte,
    setIfInBounds_eq_set _ b hroom]
  rfl

/-- Settles O26: the buffer-full step empties the buffer, and the byte is stored at its start. -/
theorem absorbByteCompressesFullBuffer : Obligations.AbsorbByteCompressesFullBuffer := by
  intro V e hs b hc hfull
  refine ⟨(zeros _).setIfInBounds 0 b, ?_, fun i hi => ?_⟩
  · rw [(CommandEffect.absorbByte b hc).exec_eq hs, e.absorbByte_full b hfull]
    rfl
  · simp [Vector.getElem_setIfInBounds, eq_comm]

/-! A string of at most a block. -/

/-- R202: on a full buffer, absorbing a string that is not empty starts with the buffer-full step. -/
theorem Engine.absorbBytes_full {V : Variant} {e : Engine V} {bs : List Byte} (hfull : e.hash.cur = V.blockBytes)
    (hbs : bs ≠ []) : e.absorbBytes bs = e.flush.absorbBytes bs := by
  obtain ⟨b, rest, rfl⟩ := List.exists_cons_of_ne_nil hbs
  have hroom : e.flush.hash.cur ≠ V.blockBytes := (variant_sizes V).1.ne
  rw [absorbBytes_cons, absorbBytes_cons, e.absorbByte_full b hfull, e.flush.absorbByte_room b hroom]

/-- The engine with another buffer and cursor. -/
def Engine.withBuffer {V : Variant} (e : Engine V) (buf : Vector Byte V.blockBytes) (cur : Nat) : Engine V :=
  { e with hash := { e.hash with buf := buf, cur := cur } }

/-- R202, R209: a string of at most a block that does not fit: its first bytes fill the buffer up, the full buffer is
flushed, and the others fit into the new one. -/
theorem Engine.absorbBytes_spills {V : Variant} {e : Engine V} {bs : List Byte} (hcur : e.hash.cur ≤ V.blockBytes)
    (hlen : bs.length ≤ V.blockBytes) (hspill : V.blockBytes < e.hash.cur + bs.length) :
    ∃ block buf : Vector Byte V.blockBytes,
      e.absorbBytes bs =
        (e.withBuffer block V.blockBytes).flush.withBuffer buf (e.hash.cur + bs.length - V.blockBytes) ∧
      (∀ (i : Nat) (_ : i < V.blockBytes), block[i] =
        if i < e.hash.cur then e.hash.buf[i] else bs.getD (i - e.hash.cur) 0) ∧
      (∀ (i : Nat) (_ : i < V.blockBytes), buf[i] =
        if i < e.hash.cur + bs.length - V.blockBytes then bs.getD (V.blockBytes - e.hash.cur + i) 0 else 0) := by
  obtain ⟨room, hroom⟩ : ∃ room, e.hash.cur + room = V.blockBytes := ⟨_, Nat.add_sub_of_le hcur⟩
  have htake : (bs.take room).length = room := by rw [List.length_take]; omega
  have hdrop : (bs.drop room).length = e.hash.cur + bs.length - V.blockBytes := by rw [List.length_drop]; omega
  have hrest : bs.drop room ≠ [] := List.ne_nil_of_length_pos (by omega)
  obtain ⟨block, hfill, hblock⟩ := Engine.absorbBytes_fits (bs.take room) e (by omega)
  obtain ⟨buf, hstore, hbuf⟩ := Engine.absorbBytes_fits (bs.drop room) (e.withBuffer block V.blockBytes).flush
    (by rw [Engine.flush_cur]; omega)
  rw [htake, hroom] at hfill hblock
  rw [Engine.flush_cur, hdrop, Nat.zero_add] at hstore hbuf
  refine ⟨block, buf, ?_, fun i hi => ?_, fun i hi => ?_⟩
  · calc e.absorbBytes bs
        = (e.absorbBytes (bs.take room)).absorbBytes (bs.drop room) := by
          rw [← Engine.absorbBytes_append, List.take_append_drop]
      _ = (e.withBuffer block V.blockBytes).flush.absorbBytes (bs.drop room) := by
          rw [hfill]; exact Engine.absorbBytes_full rfl hrest
      _ = _ := hstore
  · rw [hblock i hi]
    by_cases hold : i < e.hash.cur
    · rw [if_pos hold, if_neg (by omega)]
    · rw [if_neg hold, if_pos (by omega)]
      simp [show i - e.hash.cur < room by omega]
  · rw [hbuf i hi, show V.blockBytes - e.hash.cur + i = room + i by omega]
    simp

/-- R206: the string that ABSORB `n` absorbs has `n` bytes. -/
theorem length_take_inbuf (inbuf : Vector Byte 128) {n : Nat} (hn : n ≤ 128) : (inbuf.toList.take n).length = n := by
  simp [hn]

/-- R206: byte `i` of the string that ABSORB `n` absorbs. -/
theorem getD_take_inbuf (inbuf : Vector Byte 128) {n i : Nat} (hi : i < n) :
    (inbuf.toList.take n).getD i 0 = inbuf[i]?.getD 0 := by
  simp [hi]

/-- Settles O27: the string is one that fits. -/
theorem absorbThatFitsOnlyBuffers : Obligations.AbsorbThatFitsOnlyBuffers := by
  intro V e hs n hc hfits
  have hsizes := variant_sizes V
  have hlen := length_take_inbuf e.staging.inbuf (n := n) (by omega)
  obtain ⟨buf, habsorb, hbuf⟩ := Engine.absorbBytes_fits (e.staging.inbuf.toList.take n) e (by omega)
  rw [hlen] at habsorb hbuf
  refine ⟨buf, ?_, fun i hi h128 => ?_⟩
  · rw [(CommandEffect.absorb n hc (by omega)).exec_eq hs, habsorb]
    rfl
  · rw [hbuf i hi]
    refine ite_congr rfl (fun hin => ?_) fun _ => rfl
    rw [getD_take_inbuf _ (by omega), Vector.getElem?_eq_getElem h128, Option.getD_some]

/-- Settles O28: the string is one that spills. -/
theorem absorbThatSpillsCompressesOneBlock : Obligations.AbsorbThatSpillsCompressesOneBlock := by
  intro V e hs n hc hn hcur hspill
  have hsizes := variant_sizes V
  have hlen := length_take_inbuf e.staging.inbuf (n := n) (by omega)
  obtain ⟨block, buf, habsorb, hblock, hbuf⟩ :=
    Engine.absorbBytes_spills (bs := e.staging.inbuf.toList.take n) hcur (by omega) (by omega)
  rw [hlen] at habsorb hbuf
  refine ⟨block, buf, ?_, fun i hi h128 => ?_, fun i hi => ?_⟩
  · rw [(CommandEffect.absorb n hc hn).exec_eq hs, habsorb]
    rfl
  · rw [hblock i hi]
    refine ite_congr rfl (fun _ => rfl) fun hin => ?_
    rw [getD_take_inbuf _ (by omega), Vector.getElem?_eq_getElem h128, Option.getD_some]
  · rw [hbuf i hi]
    exact ite_congr rfl (fun hin => getD_take_inbuf _ (by omega)) fun _ => rfl

/-! ABSORB as a sequence of ABSORB_BYTE. -/

/-- R44: completing with success and absorbing a byte change different parts of the engine. -/
theorem Engine.absorbByte_succeed {V : Variant} (e : Engine V) (b : Byte) :
    e.succeed.absorbByte b = (e.absorbByte b).succeed := by
  by_cases hfull : e.hash.cur = V.blockBytes
  · rw [e.absorbByte_full b hfull, e.succeed.absorbByte_full b hfull]; rfl
  · rw [e.absorbByte_room b hfull, e.succeed.absorbByte_room b hfull]; rfl

/-- R204: a string fed byte by byte to an engine whose last command succeeded. -/
theorem feed_succeed {V : Variant} {e : Engine V} (hs : HostSide) (bs : List Byte)
    (hc : e.params.configured = true) :
    feed bs ⟨V, e.succeed, hs⟩ = .next ⟨V, (e.absorbBytes bs).succeed, hs⟩ := by
  induction bs generalizing e with
  | nil => rfl
  | cons b bs ih =>
    have hb := (CommandEffect.absorbByte (e := e.succeed) b hc).exec_eq hs
    rw [e.absorbByte_succeed] at hb
    simp only [feed, hb]
    exact ih (e := e.absorbByte b) (by simpa using hc)

/-- R204: a string that is not empty, fed byte by byte to any engine with an instance. -/
theorem feed_cons {V : Variant} {e : Engine V} (hs : HostSide) (b : Byte) (bs : List Byte)
    (hc : e.params.configured = true) :
    feed (b :: bs) ⟨V, e, hs⟩ = .next ⟨V, (e.absorbBytes (b :: bs)).succeed, hs⟩ := by
  simp only [feed, (CommandEffect.absorbByte b hc).exec_eq hs]
  exact feed_succeed (e := e.absorbByte b) hs bs (by simpa using hc)

/-- R204: feeding a string byte by byte absorbs it, but for the result code, which an empty string leaves. -/
theorem feed_eq {V : Variant} {e : Engine V} (hs : HostSide) (bs : List Byte) (hc : e.params.configured = true) :
    ∃ l : Latch, feed bs ⟨V, e, hs⟩ = .next ⟨V, { e.absorbBytes bs with latch := l }, hs⟩ := by
  cases bs with
  | nil => exact ⟨e.latch, rfl⟩
  | cons b bs => exact ⟨_, feed_cons hs b bs hc⟩

/-- Settles O30: both absorb the same bytes, of which there is at least one, and end with success. -/
theorem absorbEqualsItsBytesInTurn : Obligations.AbsorbEqualsItsBytesInTurn := by
  intro V e hs n hc h1 hn
  rw [(CommandEffect.absorb n hc hn).exec_eq hs]
  have hne : e.staging.inbuf.toList.take n ≠ [] := List.ne_nil_of_length_pos (by simp; omega)
  obtain ⟨b, bs, hcons⟩ := List.exists_cons_of_ne_nil hne
  rw [hcons, feed_cons hs b bs hc]

end Sys2Proof.Machine
end

section
/-!
PROOFS. RESET and FINALIZE: the Reinit they end in, and the digest (R200, R210 to R219).
-/

namespace Sys2Proof.Machine

/-- Settles O34: key priming, byte by byte. -/
theorem keyPrimingPadsTheKey : Obligations.KeyPrimingPadsTheKey := by
  intro V p i hi _
  rw [primedBuffer_getElem]
  refine ⟨fun hd hkey => ?_, fun hpad => if_neg (Nat.not_lt.2 hpad)⟩
  rw [if_pos hkey, Vector.getElem?_eq_getElem hd, Option.getD_some]

/-- Settles O33: RESET is a Reinit and success. -/
theorem resetRestartsTheInstance : Obligations.ResetRestartsTheInstance := by
  intro V e hs hc
  rw [(CommandEffect.reset hc).exec_eq hs]
  rfl

/-- R200: the hash state of a Reinit is a function of the retained parameters. -/
theorem Engine.reinit_hash_congr {V : Variant} {a b : Engine V} (h : a.params = b.params) :
    a.reinit.hash = b.reinit.hash := by
  rw [Engine.reinit, Engine.reinit, h]

/-- Settles O35: absorbing keeps the parameters, and a Reinit reads nothing else of the engine. -/
theorem resetForgetsAbsorbedBytes : Obligations.ResetForgetsAbsorbedBytes := by
  intro V e hs msg hc hfresh
  obtain ⟨l, hfeed⟩ := feed_eq hs msg hc
  let e₁ : Engine V := { e.absorbBytes msg with latch := l }
  have hp : e₁.params = e.params := e.absorbBytes_params msg
  have hc₁ : e₁.params.configured = true := hp ▸ hc
  refine ⟨e₁, e₁.reinit.succeed, hfeed, (CommandEffect.reset hc₁).exec_eq hs,
    (CommandEffect.reset (e := e₁.reinit.succeed) hc₁).exec_eq hs, ?_, hp, e.absorbBytes_staging msg,
    e.absorbBytes_output msg⟩
  rw [hfresh]
  exact Engine.reinit_hash_congr hp

/-- R68, R126: byte `j` of a digest as a number: digit `j mod wb` of chain word `j div wb`. -/
theorem digestByte_toNat {V : Variant} (h : Vector (Word V) 8) {j : Nat} (hj : j / V.wordBytes < 8) :
    (digestByte h j).toNat = h[j / V.wordBytes].toNat / 256 ^ (j % V.wordBytes) % 256 := by
  rw [digestByte, leByte_eq, Vector.getElem?_eq_getElem hj, Option.getD_some, BitVec.toNat_ofNat]

/-- Settles O31: the digest window holds `dl` bytes of the compressed chain value, which `dl ≤ MAXD` keeps within its
eight words. -/
theorem finalizeWritesTheDigestAndRestarts : Obligations.FinalizeWritesTheDigestAndRestarts := by
  intro V e hs hc hdl
  refine ⟨e.finalize.output.dout, (CommandEffect.finalize hc).exec_eq hs, fun j hj =>
    ⟨fun hlt => ?_, fun hge => ?_⟩⟩
  · obtain ⟨-, -, -, hmax, hwb, -⟩ := variant_sizes V
    have hword : j / V.wordBytes < 8 := (Nat.div_lt_iff_lt_mul hwb).2 (by omega)
    refine ⟨hword, ?_⟩
    simp only [e.finalize_dout, digestWindow_getElem, if_pos hlt, digestByte_toNat _ hword]
  · simp only [e.finalize_dout, digestWindow_getElem, if_neg (Nat.not_lt.2 hge)]

end Sys2Proof.Machine
end

section
/-!
PROOFS. CLEAR_KEY and CLEAR_SALT: what they zero, and how a cleared key or salt acts afterwards (R222 to R227).
-/

namespace Sys2Proof.Machine

/-- R222: CLEAR_KEY on a keyed instance. -/
theorem Engine.clearKey_keyed {V : Variant} {e : Engine V} (hk : 0 < e.params.kl) :
    e.clearKey = e.zeroKeyStaging.zeroLiveKey := if_pos hk

/-- R222: CLEAR_KEY on an unkeyed instance. -/
theorem Engine.clearKey_unkeyed {V : Variant} {e : Engine V} (hk : e.params.kl = 0) :
    e.clearKey = e.zeroKeyStaging := if_neg (by omega)

/-- Settles O36: the two cases of CLEAR_KEY. -/
theorem clearKeyZeroesKeyMaterial : Obligations.ClearKeyZeroesKeyMaterial := by
  intro V e hs hc
  rw [(CommandEffect.clearKey hc).exec_eq hs]
  refine ⟨fun hk => ?_, fun hk => ?_⟩
  · rw [Engine.clearKey_keyed hk]; rfl
  · rw [Engine.clearKey_unkeyed hk]; rfl

/-- R226: CLEAR_SALT in one equation, with or without a salt. -/
theorem Engine.clearSalt_eq {V : Variant} (e : Engine V) : e.clearSalt =
    { e with
      staging := { e.staging with salts := zeros 16 }
      params := { e.params with saltr := if e.params.saltp then zeros _ else e.params.saltr } } := by
  unfold Engine.clearSalt
  split <;> rfl

/-- Settles O39: CLEAR_SALT's effect and success. -/
theorem clearSaltZeroesTheSalt : Obligations.ClearSaltZeroesTheSalt := by
  intro V e hs hc
  rw [(CommandEffect.clearSalt hc).exec_eq hs, e.clearSalt_eq]
  rfl

/-- Settles O37: each of the three parts in which the engines differ is zeroed. -/
theorem clearKeyForgetsStagingRetainedKeyAndBuffer : Obligations.ClearKeyForgetsStagingRetainedKeyAndBuffer := by
  intro V a b hs hc hk hstaging hparams hhash hlatch hscratch houtput
  have hcb : b.params.configured = true := by rw [hparams]; exact hc
  have hkb : 0 < b.params.kl := by rw [hparams]; exact hk
  have hzeroed : b.zeroKeyStaging.zeroLiveKey = a.zeroKeyStaging.zeroLiveKey := by
    unfold Engine.zeroKeyStaging Engine.zeroLiveKey
    rw [hstaging, hparams, hhash, hlatch, hscratch, houtput]
  rw [(CommandEffect.clearKey hc).exec_eq hs, (CommandEffect.clearKey hcb).exec_eq hs, Engine.clearKey_keyed hk,
    Engine.clearKey_keyed hkb, hzeroed]

/-- R223, R200: a retained key of zeros primes a buffer of zeros. -/
theorem primedBuffer_of_keyr_zeros {V : Variant} {p : Params V} (hkeyr : p.keyr = zeros _) :
    primedBuffer p = zeros _ := by
  ext i hi : 1
  rw [primedBuffer_getElem, hkeyr, Vector.getElem?_replicate, Vector.getElem_replicate]
  split_ifs <;> rfl

/-- R143, R200: the chain value and the cursor that a Reinit leaves do not depend on the key's bytes. -/
theorem Engine.reinit_hash_of_keyr_zeros {V : Variant} {e : Engine V} {p : Params V} (hk : 0 < p.kl)
    (hp : e.params = { p with keyr := zeros _ }) :
    e.reinit.hash = { h := paramInit p, t := 0, f := 0, buf := zeros _, cur := V.blockBytes } := by
  have hbuf : primedBuffer e.params = zeros _ := primedBuffer_of_keyr_zeros (by rw [hp])
  have hcur : primedCursor e.params = V.blockBytes := by rw [hp]; exact if_pos hk
  have hh : paramInit e.params = paramInit p := by rw [hp]; rfl
  rw [Engine.reinit, hbuf, hcur, hh]

/-- Settles O38: CLEAR_KEY leaves the parameters with a key of zeros, which is all that the Reinit reads. -/
theorem clearedKeyActsAsZeroBytes : Obligations.ClearedKeyActsAsZeroBytes := by
  intro V e hs hc hk
  have hp : e.clearKey.succeed.params = { e.params with keyr := zeros _ } := by rw [Engine.clearKey_keyed hk]; rfl
  have hc₁ : e.clearKey.succeed.params.configured = true := by rw [hp]; exact hc
  refine ⟨_, _, (CommandEffect.clearKey hc).exec_eq hs, (CommandEffect.reset hc₁).exec_eq hs, hp,
    Engine.reinit_hash_of_keyr_zeros hk hp, _,
    (CommandEffect.reset (e := { e with params := { e.params with keyr := zeros _ } }) hc).exec_eq hs, ?_⟩
  exact (Engine.reinit_hash_of_keyr_zeros hk hp).trans (Engine.reinit_hash_of_keyr_zeros hk rfl).symm

/-- R125: a list of zero bytes has the value 0. -/
theorem leValue_replicate_zero (n : Nat) : leValue (List.replicate n 0) = 0 := by
  induction n with
  | zero => rfl
  | succ n ih => rw [List.replicate_succ, leValue, ih]; rfl

/-- R143, R227: a salt or personalization of zeros gives the words of an absent one. -/
theorem optionalWord_zeros {V : Variant} (present : Bool) (k : Nat) :
    optionalWord present (zeros V.saltBytes) k = (0 : Word V) := by
  cases present
  · rfl
  · have hbytes : ((zeros V.saltBytes).toList.drop (k * V.wordBytes)).take V.wordBytes =
        List.replicate (min V.wordBytes (V.saltBytes - k * V.wordBytes)) 0 := by simp
    rw [optionalWord, if_pos rfl, leWord, hbytes, leValue_replicate_zero]
    rfl

/-- R227: a salt of zeros gives the chain value of an absent salt. -/
theorem paramInit_of_saltr_zeros {V : Variant} {p : Params V} :
    paramInit { p with saltr := zeros _ } = paramInit { p with saltp := false } := by
  simp only [paramInit, optionalWord_zeros]
  rfl

/-- R35: bit 17 of STATUS, SALTED, is `saltp`. -/
theorem Engine.status_bit17 {V : Variant} (e : Engine V) : e.status.getLsbD 17 = e.params.saltp := by
  simp only [Engine.status, BitVec.getLsbD_append]
  simp

/-- Settles O40: CLEAR_SALT leaves the chain value and `saltp`, and a Reinit reads a salt of zeros as an absent one. -/
theorem clearedSaltActsAsAbsent : Obligations.ClearedSaltActsAsAbsent := by
  intro V e hs hc hsalt
  have hp : e.clearSalt.succeed.params = { e.params with saltr := zeros _ } := by
    rw [e.clearSalt_eq, hsalt]; rfl
  have hc₁ : e.clearSalt.succeed.params.configured = true := by rw [hp]; exact hc
  refine ⟨_, _, (CommandEffect.clearSalt hc).exec_eq hs, (CommandEffect.reset hc₁).exec_eq hs,
    congrArg HashState.h e.clearSalt_hash, ?_, ?_, ?_⟩
  · rw [Engine.succeed_hash, Engine.reinit_h, hp, paramInit_of_saltr_zeros]
  · rw [Engine.status_bit17, hp]; exact hsalt
  · rw [Engine.status_bit17, Engine.succeed_params, Engine.reinit_params, hp]; exact hsalt

end Sys2Proof.Machine
end

section
/-!
PROOFS. The transitions of STATUS.STATE (R230).
-/

namespace Sys2Proof.Machine

/-- R40: STATE is a function of `configured`, the cursor and the counter. -/
theorem Engine.phase_congr {V : Variant} {a b : Engine V} (hc : b.params.configured = a.params.configured)
    (hcur : b.hash.cur = a.hash.cur) (ht : b.hash.t = a.hash.t) : b.phase = a.phase := by
  rw [Engine.phase, Engine.phase, hc, hcur, ht]

/-- R40: UNCONFIGURED is the lack of an instance. -/
theorem Engine.phase_eq_unconfigured_iff {V : Variant} (e : Engine V) :
    e.phase = .unconfigured ↔ e.params.configured = false := by
  unfold Engine.phase
  split_ifs with hc <;> simp [hc]

/-- R40: an instance with bytes in its buffer is BUFFERING. -/
theorem Engine.phase_of_cur_pos {V : Variant} {e : Engine V} (hc : e.params.configured = true) (hcur : 0 < e.hash.cur) :
    e.phase = .buffering := by
  rw [Engine.phase, if_neg (by simp [hc]), if_neg (by omega)]

/-- R230, R200: a Reinit leads to EMPTY or, with the key block in the buffer, to BUFFERING. -/
theorem Engine.phase_reinit {V : Variant} {e : Engine V} (hc : e.params.configured = true) :
    e.reinit.phase = if e.params.kl = 0 then .empty else .buffering := by
  by_cases hk : e.params.kl = 0
  · have hcur : e.reinit.hash.cur = 0 := if_neg (by omega)
    rw [if_pos hk, Engine.phase, if_neg (by simp [hc]), if_pos ⟨hcur, rfl⟩]
  · have hcur : e.reinit.hash.cur = V.blockBytes := if_pos (by omega)
    rw [if_neg hk]
    exact Engine.phase_of_cur_pos (e := e.reinit) hc (by rw [hcur]; exact (variant_sizes V).1)

/-- R203: absorbing a byte leaves a byte in the buffer. -/
theorem Engine.absorbByte_cur_pos {V : Variant} (e : Engine V) (b : Byte) : 0 < (e.absorbByte b).hash.cur := by
  rw [e.absorbByte_cur]
  split <;> omega

/-- R203, R206: and so does absorbing a string that is not empty. -/
theorem Engine.absorbBytes_cur_pos {V : Variant} {bs : List Byte} (e : Engine V) (hbs : bs ≠ []) :
    0 < (e.absorbBytes bs).hash.cur := by
  rw [← List.dropLast_append_getLast hbs, Engine.absorbBytes_append]
  exact Engine.absorbByte_cur_pos _ _

/-- R230: absorbing nothing leaves STATE, and absorbing a string leads to BUFFERING. -/
theorem Engine.phase_absorbBytes {V : Variant} {e : Engine V} (hc : e.params.configured = true) (bs : List Byte) :
    (e.absorbBytes bs).phase = if bs.length = 0 then e.phase else .buffering := by
  split_ifs with hlen
  · rw [List.length_eq_zero_iff.1 hlen, Engine.absorbBytes_nil]
  · exact Engine.phase_of_cur_pos (by simpa using hc) (e.absorbBytes_cur_pos (by simpa using hlen))

/-- Settles O46: a command that fails changes the latch alone, which STATE does not read, and one that succeeds has its
own rule's effect. -/
theorem stateTransitions : Obligations.StateTransitions := by
  intro V e e' hs i hexec
  rw [exec_mk] at hexec
  obtain rfl : e.finish (e.effect i) = e' := by cases hexec; rfl
  refine ⟨fun herr => ?_, fun hphase hi => ?_, fun hok => ?_⟩
  · obtain ⟨x, -, hf⟩ | ⟨E, -, hf⟩ := e.finish_cases (e.effect i) <;> rw [hf] at herr ⊢
    · exact absurd x.succeed_err herr
    · rfl
  · rw [Engine.effect_unconfigured hi ((e.phase_eq_unconfigured_iff).1 hphase)]
    rfl
  · obtain ⟨x, hx, hf⟩ | ⟨E, hE, hf⟩ := e.finish_cases (e.effect i) <;> rw [hf] at hok ⊢
    · cases Engine.effect_ok hx with
      | configure d k => exact Engine.phase_reinit (e := e.latchParams d k) rfl
      | absorbByte b hc =>
        exact Engine.phase_of_cur_pos (e := e.absorbByte b) (by simpa using hc) (e.absorbByte_cur_pos b)
      | absorb n hc hn =>
        have hsizes := variant_sizes V
        have hphase := Engine.phase_absorbBytes hc (e.staging.inbuf.toList.take n)
        rwa [length_take_inbuf _ (by omega)] at hphase
      | finalize hc => exact Engine.phase_reinit (e := (e.countTail.compressBuffer true).putDigest.zeroise) hc
      | reset hc => exact Engine.phase_reinit hc
      | clearKey => exact Engine.phase_congr (a := e) e.clearKey_configured e.clearKey_cur e.clearKey_t
      | clearSalt => exact Engine.phase_congr (a := e) e.clearSalt_configured (by simp) (by simp)
    · exact absurd (E.code_eq_zero.1 hok) (Engine.effect_error hE).1

end Sys2Proof.Machine
end

section
/-!
PROOFS. The engine against the block-wise hash (R200, R202, R208, R211 to R216): one byte extends the fold, a Reinit is
the fold of the key block, and FINALIZE compresses the fold's last block.
-/

namespace Sys2Proof.Machine

/-! The blocks of a string that grows at its end. -/

/-- What the blocks before the last leave of a string is at most a block. -/
theorem blocksBeforeLast_bounds (V : Variant) (n : Nat) :
    blocksBeforeLast V n * V.blockBytes ≤ n ∧ n ≤ blocksBeforeLast V n * V.blockBytes + V.blockBytes := by
  have hdiv := Nat.div_add_mod (n - 1) V.blockBytes
  have hmod := Nat.mod_lt (n - 1) (variant_sizes V).1
  rw [Nat.mul_comm] at hdiv
  unfold blocksBeforeLast
  omega

/-- One more byte starts a new block exactly when the last block is full. -/
theorem blocksBeforeLast_succ (V : Variant) (n : Nat) : blocksBeforeLast V (n + 1) =
    if n - blocksBeforeLast V n * V.blockBytes = V.blockBytes then blocksBeforeLast V n + 1
    else blocksBeforeLast V n := by
  obtain ⟨hle, hge⟩ := blocksBeforeLast_bounds V n
  have hpos := (variant_sizes V).1
  rw [blocksBeforeLast, Nat.add_sub_cancel]
  split
  · exact Nat.div_eq_of_lt_le (by rw [Nat.succ_mul]; omega) (by rw [Nat.succ_mul, Nat.succ_mul]; omega)
  · exact Nat.div_eq_of_lt_le hle (by rw [Nat.succ_mul]; omega)

/-- A full block of a string stays as it is when the string grows. -/
theorem blockAt_append (V : Variant) {msg : List Byte} (rest : List Byte) {i : Nat}
    (h : i * V.blockBytes + V.blockBytes ≤ msg.length) : blockAt V (msg ++ rest) i = blockAt V msg i := by
  ext k hk : 1
  rw [blockAt_getElem, blockAt_getElem, List.getD_append _ _ _ _ (by omega)]

/-- A block with room takes the string's next byte in the place of its first padding byte. -/
theorem blockAt_concat (V : Variant) {msg : List Byte} (b : Byte) {i : Nat} (hle : i * V.blockBytes ≤ msg.length) :
    blockAt V (msg ++ [b]) i = (blockAt V msg i).setIfInBounds (msg.length - i * V.blockBytes) b := by
  ext k hk : 1
  rw [Vector.getElem_setIfInBounds, blockAt_getElem, blockAt_getElem]
  simp only [List.getD_eq_getElem?_getD, List.getElem?_append, List.getElem?_singleton]
  grind

/-- A block that starts where the string ends is all padding. -/
theorem blockAt_length (V : Variant) {msg : List Byte} {i : Nat} (h : msg.length ≤ i * V.blockBytes) :
    blockAt V msg i = zeros _ := by
  ext k hk : 1
  simp [show msg.length ≤ i * V.blockBytes + k by omega]

/-- R202: the chain value before any block. -/
theorem chainAfter_zero {V : Variant} (h : Vector (Word V) 8) (msg : List Byte) : chainAfter h msg 0 = h := rfl

/-- R202: the chain value after one block more. -/
theorem chainAfter_succ {V : Variant} (h : Vector (Word V) 8) (msg : List Byte) (k : Nat) :
    chainAfter h msg (k + 1) = compress (chainAfter h msg k) (blockAt V msg k)
      (BitVec.ofNat _ ((k + 1) * V.blockBytes)) false := by
  rw [chainAfter, List.range_succ, List.foldl_append]
  rfl

/-- The chain value after full blocks of a string stays as it is when the string grows. -/
theorem chainAfter_append {V : Variant} (h : Vector (Word V) 8) {msg : List Byte} (rest : List Byte) {k : Nat}
    (hk : k * V.blockBytes ≤ msg.length) : chainAfter h (msg ++ rest) k = chainAfter h msg k := by
  induction k with
  | zero => rw [chainAfter_zero, chainAfter_zero]
  | succ k ih =>
    rw [Nat.succ_mul] at hk
    rw [chainAfter_succ, chainAfter_succ, ih (by omega), blockAt_append V rest hk]

/-- R128: adding to a counter that holds a number. -/
theorem ctrAdd_ofNat {V : Variant} (a n : Nat) : ctrAdd (V := V) (BitVec.ofNat _ a) n = BitVec.ofNat _ (a + n) :=
  (BitVec.ofNat_add a n).symm

/-! The fold. -/

/-- R202: the fold reads nothing of an engine but its hash state. -/
theorem Engine.FoldOf.congr {V : Variant} {a b : Engine V} {h : Vector (Word V) 8} {msg : List Byte}
    (hf : a.FoldOf h msg) (hh : b.hash = a.hash) : b.FoldOf h msg where
  h := hh ▸ hf.h
  t := hh ▸ hf.t
  f := hh ▸ hf.f
  buf := hh ▸ hf.buf
  cur := hh ▸ hf.cur

/-- R201 to R203: absorbing a byte extends the fold by it. -/
theorem Engine.FoldOf.absorbByte {V : Variant} {e : Engine V} {h : Vector (Word V) 8} {msg : List Byte}
    (hf : e.FoldOf h msg) (b : Byte) : (e.absorbByte b).FoldOf h (msg ++ [b]) := by
  obtain ⟨hle, hge⟩ := blocksBeforeLast_bounds V msg.length
  have hnext := blocksBeforeLast_succ V msg.length
  obtain ⟨hh, ht, hflag, hbuf, hcur⟩ := hf
  have hlast : (msg ++ [b]).length = msg.length + 1 := by simp
  rw [← hcur, ← hlast] at hnext
  generalize blocksBeforeLast V msg.length = k at *
  by_cases hfull : e.hash.cur = V.blockBytes
  · rw [if_pos hfull] at hnext
    have hlen : (k + 1) * V.blockBytes = msg.length := by rw [Nat.succ_mul]; omega
    have ht' : ctrAdd e.hash.t V.blockBytes = BitVec.ofNat _ ((k + 1) * V.blockBytes) := by
      rw [ht, ctrAdd_ofNat, Nat.succ_mul]
    rw [e.absorbByte_full b hfull]
    refine ⟨?_, ?_, hflag, ?_, ?_⟩ <;> rw [hnext]
    · rw [Engine.storeByte_h, Engine.flush_h, chainAfter_append h [b] hlen.le, chainAfter_succ, hh, hbuf, ht']
    · exact ht'
    · rw [blockAt_concat V b hlen.le, blockAt_length V hlen.ge, hlen, Nat.sub_self]; rfl
    · rw [hlast, hlen, Nat.add_sub_cancel_left]; rfl
  · rw [if_neg hfull] at hnext
    rw [e.absorbByte_room b hfull]
    refine ⟨?_, ?_, hflag, ?_, ?_⟩ <;> rw [hnext]
    · rw [Engine.storeByte_h, chainAfter_append h [b] hle, hh]
    · exact ht
    · rw [Engine.storeByte_buf, blockAt_concat V b hle, hbuf, hcur]
    · rw [Engine.storeByte_cur, hcur, hlast]; omega

/-- R206: and so does a string of bytes. -/
theorem Engine.FoldOf.absorbBytes {V : Variant} {e : Engine V} {h : Vector (Word V) 8} {msg : List Byte}
    (hf : e.FoldOf h msg) (bs : List Byte) : (e.absorbBytes bs).FoldOf h (msg ++ bs) := by
  induction bs generalizing e msg with
  | nil => rwa [List.append_nil]
  | cons b bs ih => rw [List.append_cons]; exact ih (hf.absorbByte b)

/-! The fold's ends: Reinit and FINALIZE. -/

/-- R200: the key block, if any, is as long as the cursor says. -/
theorem keyPrefix_length {V : Variant} (p : Params V) : (keyPrefix p).length = primedCursor p := by
  unfold keyPrefix primedCursor
  split <;> simp

/-- R200: the buffer that a Reinit leaves is the first block of the key block, if any. -/
theorem blockAt_keyPrefix {V : Variant} (p : Params V) : blockAt V (keyPrefix p) 0 = primedBuffer p := by
  ext i hi : 1
  rw [blockAt_getElem, Nat.zero_mul, Nat.zero_add, keyPrefix]
  split_ifs with hk
  · simp [hi]
  · rw [primedBuffer_getElem, if_neg (by omega), List.getD_nil]

/-- R200: a Reinit leaves the fold of the key block, if any. -/
theorem Engine.reinit_foldOf {V : Variant} (e : Engine V) :
    e.reinit.FoldOf (paramInit e.params) (keyPrefix e.params) := by
  have hbefore : blocksBeforeLast V (keyPrefix e.params).length = 0 := by
    have hpos := (variant_sizes V).1
    have hcur := primedCursor_le e.params
    rw [keyPrefix_length]
    exact Nat.div_eq_of_lt (by omega)
  refine ⟨?_, ?_, rfl, ?_, ?_⟩ <;> rw [hbefore]
  · rw [chainAfter_zero, Engine.reinit_h]
  · rw [Nat.zero_mul]; rfl
  · rw [blockAt_keyPrefix, Engine.reinit_buf]
  · rw [keyPrefix_length, Nat.zero_mul]; rfl

/-- R211, R212: what FINALIZE compresses from the fold of a string gives the string's block-wise hash. -/
theorem Engine.FoldOf.compress_eq {V : Variant} {e : Engine V} {h : Vector (Word V) 8} {msg : List Byte}
    (hf : e.FoldOf h msg) : compress e.hash.h e.hash.buf (ctrAdd e.hash.t e.hash.cur) true = chainOf h msg := by
  obtain ⟨hle, -⟩ := blocksBeforeLast_bounds V msg.length
  rw [hf.h, hf.buf, hf.t, hf.cur, ctrAdd_ofNat, Nat.add_sub_of_le hle]
  rfl

/-- Settles O32: ABSORB_BYTE extends the fold; a Reinit starts it with the key block and FINALIZE ends it. -/
theorem engineComputesTheBlockwiseHash : Obligations.EngineComputesTheBlockwiseHash := by
  refine ⟨fun V e hs h bytes b hc hf => ?_, fun V e hs msg hc _ hfresh => ?_⟩
  · exact ⟨_, (CommandEffect.absorbByte b hc).exec_eq hs, (hf.absorbByte b).congr rfl⟩
  · obtain ⟨l, hfeed⟩ := feed_eq hs msg hc
    let e₁ : Engine V := { e.absorbBytes msg with latch := l }
    have hp : e₁.params = e.params := e.absorbBytes_params msg
    have hc₁ : e₁.params.configured = true := hp ▸ hc
    have hf : e₁.FoldOf (paramInit e.params) (keyPrefix e.params ++ msg) :=
      ((e.reinit_foldOf.congr hfresh).absorbBytes msg).congr rfl
    refine ⟨e₁, e₁.finalize.succeed, hfeed, (CommandEffect.finalize hc₁).exec_eq hs, congrArg Params.dl hp, hp,
      (Engine.reinit_hash_congr hp).trans hfresh.symm, fun j hj => ?_⟩
    simp only [Engine.succeed_output, Engine.finalize_dout, digestWindow_getElem, hf.compress_eq, hp]

end Sys2Proof.Machine
end

section
/-!
PROOFS. Errors and stops (60_exceptions.md): what a completion with an error leaves (R243), and the two host-protocol
violations as the only steps that stop (R246).
-/

namespace Sys2Proof.Machine

/-- R275: the completion step is the move of the engine's turn. -/
theorem engineStep_move {V : Variant} {e e' : Engine V} {hs hs' : HostSide}
    (h : engineStep ⟨V, e, hs⟩ = .next ⟨V, e', hs'⟩) : StepMove e .engine e' :=
  step_move_mk (hs := { hs with schedule := .engine :: hs.schedule }) h

/-- Settles O19: of the moves on the engine's turn, a busy engine does not stay, and an effect ends with code 0. -/
theorem errorCompletionChangesNothingElse : Obligations.ErrorCompletionChangesNothingElse := by
  intro V e e' c hs h herr
  have hbusy : (e.latchCommand c).latch.busy = true := rfl
  cases engineStep_move h with
  | stay _ hidle => exact nomatch hbusy.symm.trans (hidle rfl)
  | write _ _ hh => exact nomatch hh
  | done => exact absurd rfl herr
  | failed => rfl
  | reset hr => exact nomatch hr

/-- R275: the engine's turn never stops the machine. -/
theorem engineStep_next {V : Variant} (e : Engine V) (hs : HostSide) : ∃ t, engineStep ⟨V, e, hs⟩ = .next t := by
  cases hb : e.latch.busy with
  | false => exact ⟨_, if_neg (by simp [hb])⟩
  | true =>
    obtain ⟨_, h, -⟩ := engineStep_busy hs hb
    exact ⟨_, h⟩

/-- R246: the host's next operation breaks its protocol, and the fault that stands for it. -/
inductive HostViolation (s : State) : Fault → Prop
  | badRead (off width : Nat) (rest : List HostOp) : s.host.program = .read off width :: rest → off < 0x200 →
      width ≠ 32 ∨ off % 4 ≠ 0 → HostViolation s (.busFault off width)
  | badWrite (off width : Nat) (x : BitVec 32) (rest : List HostOp) : s.host.program = .write off width x :: rest →
      off < 0x200 → width ≠ 32 ∨ off % 4 ≠ 0 → HostViolation s (.busFault off width)
  | busyWrite (off width : Nat) (x : BitVec 32) (rest : List HostOp) : s.host.program = .write off width x :: rest →
      off < 0x200 → s.engine.latch.busy = true → HostViolation s (.hostWriteWhileBusy off)

/-- The machine goes on from `s`, or stops there with a violation of the host's. -/
def GoesOnOrViolates (s : State) : Prop :=
  (∃ t, step s = .next t) ∨ ∃ F, step s = .fault F ∧ HostViolation s F

section
variable {V : Variant} {e : Engine V} {hs : HostSide} (ht : State.turn ⟨V, e, hs⟩ = .host)
include ht

/-- R61, R64, R71: a read stops the machine only in the window, and there by its width or its offset alone. -/
theorem read_goesOnOrViolates {off width : Nat} {rest : List HostOp} (hp : hs.program = .read off width :: rest) :
    GoesOnOrViolates ⟨V, e, hs⟩ := by
  cases hw : inWindow off with
  | false => exact .inl ⟨_, step_read_outside ht hp hw⟩
  | true =>
    cases ha : admitted off width with
    | false => exact .inr ⟨_, step_read_fault ht hp hw ha,
        .badRead off width rest hp ((inWindow_iff off).1 hw) ((admitted_false_iff off width).1 ha)⟩
    | true =>
      cases hb : e.latch.busy with
      | false => exact .inl ⟨_, step_read_idle ht hp hw ha hb⟩
      | true => exact .inl ⟨_, step_read_busy ht hp hw ha hb⟩

/-- R61, R64, R71: a write stops the machine only in the window: by its width or its offset, or while busy. -/
theorem write_goesOnOrViolates {off width : Nat} {x : BitVec 32} {rest : List HostOp}
    (hp : hs.program = .write off width x :: rest) : GoesOnOrViolates ⟨V, e, hs⟩ := by
  cases hw : inWindow off with
  | false => exact .inl ⟨_, step_write_outside ht hp hw⟩
  | true =>
    cases ha : admitted off width with
    | false => exact .inr ⟨_, step_write_fault ht hp hw ha,
        .badWrite off width x rest hp ((inWindow_iff off).1 hw) ((admitted_false_iff off width).1 ha)⟩
    | true =>
      cases hb : e.latch.busy with
      | false => exact .inl ⟨_, step_write_idle ht hp hw ha hb⟩
      | true => exact .inr ⟨_, step_write_busy ht hp hw ha hb, .busyWrite off width x rest hp ((inWindow_iff off).1 hw) hb⟩

/-- R103: a poll of the WAIT loop never stops the machine. -/
theorem wait_goesOnOrViolates {rest : List HostOp} (hp : hs.program = .wait :: rest) :
    GoesOnOrViolates ⟨V, e, hs⟩ := by
  cases hb : e.latch.busy with
  | false => exact .inl ⟨_, (step_wait ht hp).trans (hostPoll_idle _ rest hb)⟩
  | true => exact .inl ⟨_, (step_wait ht hp).trans (hostPoll_busy _ rest hb)⟩

/-- A host with nothing left to do does not stop the machine (assumption 3). -/
theorem step_host_done (hp : hs.program = []) :
    step ⟨V, e, hs⟩ = .next ⟨V, e, { hs with schedule := hs.schedule.tail }⟩ := by
  simp [step, ht, moveOf, hostStep, State.takeTurn, hp]

/-- R74: the host's turn, by its next operation. -/
theorem host_goesOnOrViolates : GoesOnOrViolates ⟨V, e, hs⟩ := by
  cases hp : hs.program with
  | nil => exact .inl ⟨_, step_host_done ht hp⟩
  | cons op rest =>
    cases op with
    | read off width => exact read_goesOnOrViolates ht hp
    | write off width x => exact write_goesOnOrViolates ht hp
    | wait => exact wait_goesOnOrViolates ht hp

end

/-- R246: what a step can come to: the engine and hardware reset go on; the host goes on or violates its protocol. -/
theorem step_goesOnOrViolates (s : State) :
    (∃ t, step s = .next t) ∨ s.turn = .host ∧ ∃ F, step s = .fault F ∧ HostViolation s F := by
  obtain ⟨V, e, hs⟩ := s
  cases ht : State.turn ⟨V, e, hs⟩ with
  | host => exact (host_goesOnOrViolates ht).imp_right fun h => ⟨rfl, h⟩
  | engine =>
    left
    rw [step, ht]
    exact engineStep_next e _
  | hardwareReset =>
    left
    rw [step, ht]
    exact ⟨_, rfl⟩

/-- Settles O51: a step that does not go on is a fault on the host's turn, and each violation is one of the statement's. -/
theorem onlyHostViolationsStopTheMachine : Obligations.OnlyHostViolationsStopTheMachine := by
  intro s
  obtain ⟨t, hnext⟩ | ⟨hturn, F, hfault, hviol⟩ := step_goesOnOrViolates s
  · rw [hnext]
    exact ⟨nofun, nofun⟩
  · rw [hfault]
    refine ⟨nofun, fun G hG => ⟨hturn, ?_⟩⟩
    cases hG
    cases hviol with
    | badRead off width rest hp hoff hbad => exact ⟨off, width, rest, hoff, .inl ⟨hp, hbad, rfl⟩⟩
    | badWrite off width x rest hp hoff hbad => exact ⟨off, width, rest, hoff, .inr ⟨x, hp, .inl ⟨hbad, rfl⟩⟩⟩
    | busyWrite off width x rest hp hoff hbusy => exact ⟨off, width, rest, hoff, .inr ⟨x, hp, .inr ⟨hbusy, rfl⟩⟩⟩

end Sys2Proof.Machine
end

section
/-!
PROOFS. Hardware reset, the engine's turn and completion (70_reset_and_hazards.md): the registers of a reset engine
(R270, R47), the completion step of a busy engine and the idle turn (R275), and how a command can end (R242).
-/

namespace Sys2Proof.Machine

/-- R242: success is a code that every command may end with. -/
theorem ok_mem_mayEndWith (i : Instr) : ErrCode.ok ∈ mayEndWith i := by
  cases i <;> exact List.mem_cons_self

/-- Settles O18: a command's effect completes with success, and its error with a code the command may end with. -/
theorem everyCommandCompletes : Obligations.EveryCommandCompletes := by
  intro i V e hs
  obtain ⟨x, -, hf⟩ | ⟨E, hE, hf⟩ := e.finish_cases (e.effect i)
  · exact ⟨x.succeed, .ok, by rw [exec_mk, hf], ok_mem_mayEndWith i, rfl, rfl⟩
  · exact ⟨e.raise E, E, by rw [exec_mk, hf], (Engine.effect_error hE).2, rfl, rfl⟩

/-- R270: on the turn of hardware reset the engine becomes the reset engine, and the host's side gives up the turn. -/
theorem step_hardwareReset {V : Variant} {e : Engine V} {hs : HostSide} (ht : State.turn ⟨V, e, hs⟩ = .hardwareReset) :
    step ⟨V, e, hs⟩ = .next ⟨V, Engine.reset V, { hs with schedule := hs.schedule.tail }⟩ := by
  rw [step, ht]
  rfl

/-- R66: every register of a byte array of zeros reads 0. -/
theorem packedReg_zeros (n j : Nat) : packedReg (zeros n) j = 0 := by
  have hbyte (i : Nat) : (zeros n)[i]?.getD 0 = 0 := by
    rw [Vector.getElem?_replicate]
    split <;> rfl
  simp only [packedReg, hbyte]
  rfl

/-- R38: every register of the counter 0 reads 0. -/
theorem counterReg_zero (V : Variant) (k : Nat) : counterReg (0 : Counter V) k = 0 :=
  BitVec.eq_of_toNat_eq (by simp [counterReg_toNat])

/-- R47: every register of a reset engine but ID reads 0. -/
theorem Engine.reset_readReg (V : Variant) {r : Reg} (hr : r ≠ .id) : (Engine.reset V).readReg r = 0 := by
  have hzero : 0 < 256 := by decide
  cases r with
  | id => exact absurd rfl hr
  | counter k => exact counterReg_zero V k
  | pers j => exact packedReg_zeros 16 j
  | inbuf j => exact packedReg_zeros 128 j
  | dout j => exact packedReg_zeros 64 j
  | status => exact BitVec.eq_of_toNat_eq (Engine.status_toNat (Nat.zero_le _))
  | outlen => exact BitVec.eq_of_toNat_eq (Engine.outlenReg_toNat (e := Engine.reset V) hzero)
  | param => exact BitVec.eq_of_toNat_eq (Engine.paramReg_toNat (e := Engine.reset V) hzero hzero)
  | cfg | cfglen | cmd | key | salt | reserved => rfl

/-- Settles O3: the schedule's first entry gives hardware reset the turn. -/
theorem hardwareResetBlanksTheEngine : Obligations.HardwareResetBlanksTheEngine := by
  intro V e hs rest hsched
  have ht : State.turn ⟨V, e, hs⟩ = .hardwareReset := by rw [State.turn, hsched]
  refine ⟨?_, rfl, fun r hr => Engine.reset_readReg V hr⟩
  rw [step_hardwareReset ht, hsched, List.tail_cons]

/-- R275: a step on the engine's turn is the engine's, after the turn is taken. -/
theorem step_engine {s : State} (ht : s.turn = .engine) : step s = engineStep s.takeTurn := by
  rw [step, ht]
  rfl

/-- R96: a busy engine whose latched word decodes runs that command. -/
theorem engineStep_decoded {s : State} {i : Instr} (hb : s.engine.latch.busy = true)
    (hd : decodeWord s.engine.latch.pend = .ok i) : engineStep s = exec i s := by
  rw [engineStep, if_pos hb, hd]

/-- R275: an idle engine does nothing (assumption 3). -/
theorem engineStep_idle {s : State} (hb : s.engine.latch.busy = false) : engineStep s = .next s := by
  rw [engineStep, hb]
  rfl

/-- Settles O15: taking the turn leaves the engine, so that the latch read is that of `s`. -/
theorem stepRunsDecodedCommand : Obligations.StepRunsDecodedCommand := fun s _ ht =>
  ⟨fun hb hd => (step_engine ht).trans (engineStep_decoded (s := s.takeTurn) hb hd),
    fun hb => (step_engine ht).trans (engineStep_idle (s := s.takeTurn) hb)⟩

end Sys2Proof.Machine
end
